-- ==== Sys2Proof/Word.lean ====
section
/-! DEFINITION. The word types of the card: the widths of spec/00_scope.md R4 and R5. All values are unsigned
(00_scope.md section 6). -/

namespace Sys2Proof

/-- A byte: `DATA_WIDTH` = 8 (R4). The width of every register, of `data` and of the bus response. -/
abbrev Byte := BitVec 8

/-- An offset: `OFFSET_WIDTH` = 8, the low address bits the block decodes (R4). -/
abbrev Offset := BitVec 8

/-- A full bus address: `ADDR_WIDTH` = 16 (R5, decision D2 of the spec). -/
abbrev Addr := BitVec 16

/-- The host's program counter, an input the block never interprets: `PC_WIDTH` = 16 (R5, R23). -/
abbrev HostPc := BitVec 16

/-- The host's cycle budget, an input the block never interprets: `CYCLES_WIDTH` = 32 (R5, R147). -/
abbrev Cycles := BitVec 32

/-- A slot number as the card holds it, in 3 bits (R13). The value 0 is not a valid slot. -/
abbrev Slot := BitVec 3

/-- The decode key `K` of format B, 9 bits (R51). -/
abbrev DecodeKey := BitVec 9

/-- The command word `C[4:0]` of format C (R58). -/
abbrev CommandWord := BitVec 5

end Sys2Proof
end

