-- ==== Sys2Proof/Syntax.lean ====
section
/-! DEFINITION. What is presented to the card's two ports, and the fifteen operations of spec/opcode_table.json
(30_encoding.md R50, R52, R57). -/

namespace Sys2Proof

/-- The five registers of the register file (R14), in the order `reg[0]` to `reg[4]`. -/
inductive Reg where
  /-- `reg[0]`, DATA, `dataRegister` (R15) -/
  | data
  /-- `reg[1]`, STATCTL, `statusControlRegister` (R16) -/
  | statctl
  /-- `reg[2]`, CLKDIV, `clockDivisorRegister` (R17) -/
  | clkdiv
  /-- `reg[3]`, SSEL, `slaveSelectRegister` (R18) -/
  | ssel
  /-- `reg[4]`, BANK, `bankSelectRegister` (R19) -/
  | bank
  deriving DecidableEq, Repr

/-- Format B: the five inputs of the dispatcher (R50). A transaction is a record of fields, not a packed word. -/
structure Transaction where
  /-- the host CPU's program counter at the access, not interpreted -/
  pc : HostPc
  /-- the full address, of which bits 7 to 0 are decoded -/
  addr : Addr
  /-- true for a write, false for a read -/
  isWrite : Bool
  /-- the byte to store, ignored on a served read -/
  data : Byte
  /-- bus timing context, not interpreted -/
  cyclesRemaining : Cycles
  deriving DecidableEq, Repr

/-- The fields of a transaction outside its decode key (R51): what is left of it once `isWrite` and the offset
are known. -/
structure BusContext where
  pc : HostPc
  /-- `addr[15:8]`, which takes no part in the decode (R31) -/
  page : BitVec 8
  data : Byte
  cyclesRemaining : Cycles
  deriving DecidableEq, Repr

/-- What an agent presents to the card: a bus transaction on the bus port (format B, R50) or a command word on the
control port (format C, R58; LOAD's window operand is a port connection and no field of the word). -/
inductive Request where
  | bus (t : Transaction)
  | control (c : CommandWord)
  deriving DecidableEq, Repr

/-- The fifteen operations, one constructor for each mnemonic of spec/opcode_table.json. The table's seven FWD rows
are seven bit patterns of one operation (R53). -/
inductive Instr where
  | rdData (c : BusContext)
  | rdStatus (c : BusContext)
  | rdClkdiv (c : BusContext)
  | rdSsel (c : BusContext)
  | rdBank (c : BusContext)
  | wrData (c : BusContext)
  | wrCtrl (c : BusContext)
  | wrClkdiv (c : BusContext)
  | wrSsel (c : BusContext)
  | wrBank (c : BusContext)
  /-- a forwarded access carries its whole transaction (R103) -/
  | fwd (t : Transaction)
  /-- `arg` is `C[2:0]`, which QRY ignores (R58) -/
  | qry (arg : BitVec 3)
  | seten0
  | seten1
  /-- `slot` is `C[2:0]`, 1 to 7 (R58) -/
  | load (slot : Slot)
  deriving DecidableEq, Repr

/-- `RD a` of the spec's notation with its defaults (R60). -/
def Transaction.rd (a : Addr) : Transaction :=
  { pc := 0x0000#16, addr := a, isWrite := false, data := 0x00#8, cyclesRemaining := 0#32 }

/-- `WR a, d` of the spec's notation with its defaults (R60). -/
def Transaction.wr (a : Addr) (d : Byte) : Transaction :=
  { pc := 0x0000#16, addr := a, isWrite := true, data := d, cyclesRemaining := 0#32 }

end Sys2Proof
end

