-- ==== Sys2Proof/Config.lean ====
section
/-! DEFINITION. The parameters of spec/00_scope.md: the constants of R4, the decided values of R5, and the open
parameters and free values of R6, which are opaque: no proof can see what they are. -/

namespace Sys2Proof.Config

/-- `NUM_REGS` (R4). -/
def numRegs : Nat := 5

/-- `REG_BASE`, the offset of register 0 (R4). -/
def regBase : Offset := 0xF0#8

/-- `REG_LAST`, the offset of register 4 (R4). -/
def regLast : Offset := 0xF4#8

/-- `NEUTRAL`, the response when the card is absent and to every served write (R4). -/
def neutral : Byte := 0x00#8

/-- `PAGE_SIZE`, the size of the firmware image and of the footprint (R4). -/
def pageSize : Nat := 256

/-- `SLOT_DEFAULT`, the reset value of `slot` (R4). -/
def slotDefault : Slot := 7#3

/-- `ABSENT_FORWARDS_UNMAPPED` (R5, conflict C1, decision D3 of the spec): an access to an unmapped offset while
the card is absent is not forwarded. -/
def absentForwardsUnmapped : Bool := false

/-- The least number of bytes a window has: `(SLOT_MAX + 1) * 256` (R6). -/
def romWinMin : Nat := 2048

/-- How far the window's length exceeds the least one: open (R6). -/
opaque romWinSlack : Nat

/-- `ROMWIN_BYTES`, the length of the peripheral ROM window: open, at least 2048 (R6, decision D8 of the spec). -/
def romWinBytes : Nat := romWinSlack + romWinMin

/-- `FIRMWARE_ID`, the identifier of the firmware resource: open (R6). -/
opaque firmwareId : Nat

/-- `CARD_TYPE_TAG`, the tag announced to the slot registry: open (R6). -/
opaque cardTypeTag : Nat

/-- `WINDOW` (R6): whether `RomWindow()` answers a window, at the draw of this number. A free value (R47). -/
opaque freeWindow : Nat → Bool

/-- `FIRMWARE` (R6): the answer of `FwFetch(FIRMWARE_ID)` at the draw of this number, none or a byte sequence of
any length. A free value (R86). -/
opaque freeFirmware : Nat → Option (List Byte)

/-- `Fallback` (R6): the answer of the unmapped-I/O handler to this transaction at the draw of this number. A free
value (R103, R139). -/
opaque freeFallback : Nat → Transaction → Byte

end Sys2Proof.Config
end

