-- ==== Sys2Proof/Machine/Operands.lean ====
section
/-! DEFINITION. The operand forms: the fields of a bus transaction (30_encoding.md R50, R51, R61), the decode of an
offset (R53), the fields of a command word (R58) and the position of a footprint (20_memory.md R33). -/

namespace Sys2Proof

/-- The offset of a bus access: `addr[7:0]` (R31). -/
def Transaction.offset (t : Transaction) : Offset := t.addr.extractLsb' 0 8

/-- The decode key `K`: `isWrite` in bit 8, the offset in bits 7 to 0 (R51). -/
def Transaction.key (t : Transaction) : DecodeKey := BitVec.ofBool t.isWrite ++ t.offset

/-- What of a transaction takes no part in its decode (R51). -/
def Transaction.context (t : Transaction) : BusContext :=
  { pc := t.pc, page := t.addr.extractLsb' 8 8, data := t.data, cyclesRemaining := t.cyclesRemaining }

/-- The transaction with this direction, this offset and the other fields of `c` (R50). -/
def BusContext.access (c : BusContext) (isWrite : Bool) (o : Offset) : Transaction :=
  { pc := c.pc, addr := c.page ++ o, isWrite := isWrite, data := c.data, cyclesRemaining := c.cyclesRemaining }

/-- The offset of register `k` is `0xF0 + k` (R14). -/
def Reg.offset : Reg → Offset
  | .data => 0xF0#8
  | .statctl => 0xF1#8
  | .clkdiv => 0xF2#8
  | .ssel => 0xF3#8
  | .bank => 0xF4#8

/-- The index `k` of a register, 0 to 4 (R14). -/
def Reg.index : Reg → Nat
  | .data => 0
  | .statctl => 1
  | .clkdiv => 2
  | .ssel => 3
  | .bank => 4

/-- The register an offset selects, if it lies in the managed range (R52, R102). -/
def Reg.ofOffset (o : Offset) : Option Reg :=
  if o = 0xF0#8 then some .data
  else if o = 0xF1#8 then some .statctl
  else if o = 0xF2#8 then some .clkdiv
  else if o = 0xF3#8 then some .ssel
  else if o = 0xF4#8 then some .bank
  else none

/-- `hit`: the offset lies in the managed range, `0xF0 ≤ offset ≤ 0xF4` (R53, R108 b). -/
def Offset.hit (o : Offset) : Bool := decide (Config.regBase ≤ o) && decide (o ≤ Config.regLast)

/-- `C[4:3]`, the command code (R58). -/
def CommandWord.code (c : CommandWord) : BitVec 2 := c.extractLsb' 3 2

/-- `C[2:0]`, the argument (R58). -/
def CommandWord.arg (c : CommandWord) : BitVec 3 := c.extractLsb' 0 3

/-- The command word with this code and argument (R58). -/
def CommandWord.make (code : BitVec 2) (arg : BitVec 3) : CommandWord := code ++ arg

/-- `SLOT_BASE(s) = s * 256`, the index of the first byte of the footprint of `s` (R33, decision D8 of the spec;
UNVERIFIED, unsafe: log 12). -/
def slotBase (s : Slot) : Nat := s.toNat * Config.pageSize

/-- The index lies in the footprint of `s`: the 256 consecutive indices from `SLOT_BASE(s)` (R33). -/
def inFootprint (s : Slot) (a : Nat) : Bool :=
  decide (slotBase s ≤ a) && decide (a < slotBase s + Config.pageSize)

end Sys2Proof
end

