-- ==== Sys2Proof/WellFormed.lean ====
section
/-! DEFINITION. The instructions that have an encoding (30_encoding.md R52, R58, R59). -/

namespace Sys2Proof

/-- An instruction the ports can present: a forwarded access names an unmapped offset (R53), a LOAD names a slot
from 1 to 7 (R58, R59). The other operations have no operand that could be out of range. -/
def Instr.wellFormed : Instr → Bool
  | .rdData _ => true
  | .rdStatus _ => true
  | .rdClkdiv _ => true
  | .rdSsel _ => true
  | .rdBank _ => true
  | .wrData _ => true
  | .wrCtrl _ => true
  | .wrClkdiv _ => true
  | .wrSsel _ => true
  | .wrBank _ => true
  | .fwd t => !(Offset.hit t.offset)
  | .qry _ => true
  | .seten0 => true
  | .seten1 => true
  | .load s => decide (s ≠ 0#3)

end Sys2Proof
end

