-- ==== Sys2Proof/Decode.lean ====
section
/-! DEFINITION. The decode of both ports, total on every request and rejecting reserved command words by name, then
the encoder (30_encoding.md R52, R53, R58, R59), and the decode tables of spec/opcode_table.json row by row. -/

namespace Sys2Proof

/-- The command words that select no operation (R59, decision D13 of the spec). No bus transaction is ever rejected
(R55). -/
inductive DecodeError where
  /-- `01 01x` and `01 1xx`: SETEN with `C[2:1]` not zero -/
  | reservedSeten (c : CommandWord)
  /-- `10 000`: LOAD with slot 0 -/
  | loadSlotZero (c : CommandWord)
  /-- `11 xxx` -/
  | reservedCode (c : CommandWord)
  deriving DecidableEq, Repr

/-- The served read of a register (R52, read direction). -/
def readInstr (r : Reg) (c : BusContext) : Instr :=
  match r with
  | .data => .rdData c
  | .statctl => .rdStatus c
  | .clkdiv => .rdClkdiv c
  | .ssel => .rdSsel c
  | .bank => .rdBank c

/-- The served write of a register (R52, write direction). -/
def writeInstr (r : Reg) (c : BusContext) : Instr :=
  match r with
  | .data => .wrData c
  | .statctl => .wrCtrl c
  | .clkdiv => .wrClkdiv c
  | .ssel => .wrSsel c
  | .bank => .wrBank c

/-- The operation a bus transaction selects, a function of its decode key alone (R51, R52, R55). -/
def decodeBus (t : Transaction) : Instr :=
  match Reg.ofOffset t.offset with
  | some r => if t.isWrite then writeInstr r t.context else readInstr r t.context
  | none => .fwd t

/-- The operation a command word selects, or the name of the reserved word (R58, R59). -/
def decodeControl (c : CommandWord) : Except DecodeError Instr :=
  if CommandWord.code c = 0b00#2 then .ok (.qry (CommandWord.arg c))
  else if CommandWord.code c = 0b01#2 then
    if CommandWord.arg c = 0b000#3 then .ok .seten0
    else if CommandWord.arg c = 0b001#3 then .ok .seten1
    else .error (.reservedSeten c)
  else if CommandWord.code c = 0b10#2 then
    if CommandWord.arg c = 0b000#3 then .error (.loadSlotZero c) else .ok (.load (CommandWord.arg c))
  else .error (.reservedCode c)

/-- The operation a request selects. -/
def decode : Request → Except DecodeError Instr
  | .bus t => .ok (decodeBus t)
  | .control c => decodeControl c

/-- The request that presents an instruction (R52, R58). -/
def encode : Instr → Request
  | .rdData c => .bus (c.access false 0xF0#8)
  | .rdStatus c => .bus (c.access false 0xF1#8)
  | .rdClkdiv c => .bus (c.access false 0xF2#8)
  | .rdSsel c => .bus (c.access false 0xF3#8)
  | .rdBank c => .bus (c.access false 0xF4#8)
  | .wrData c => .bus (c.access true 0xF0#8)
  | .wrCtrl c => .bus (c.access true 0xF1#8)
  | .wrClkdiv c => .bus (c.access true 0xF2#8)
  | .wrSsel c => .bus (c.access true 0xF3#8)
  | .wrBank c => .bus (c.access true 0xF4#8)
  | .fwd t => .bus t
  | .qry arg => .control (CommandWord.make 0b00#2 arg)
  | .seten0 => .control (CommandWord.make 0b01#2 0b000#3)
  | .seten1 => .control (CommandWord.make 0b01#2 0b001#3)
  | .load s => .control (CommandWord.make 0b10#2 s)

/-- The request whose bits are `w`, numbered as spec/opcode_table.json numbers them: a row of format C has 5 bits,
one byte (`C`, R58); a row of format B has the 9 bits of `K`, two bytes (R51), and every bit of the transaction outside
`K` is 0. The table's FWD rows fix no bit above bit 7, so a one-byte word that is no 5-bit command word is read as
`K[7:0]` (DESIGN CHOICE, safe: log 9). -/
def tableRequest (nbits w : Nat) : Request :=
  if nbits ≤ 8 ∧ w < 32 then .control (BitVec.ofNat 5 w)
  else .bus
    { pc := 0#16, addr := BitVec.ofNat 16 (w % 256), isWrite := w.testBit 8, data := 0#8, cyclesRemaining := 0#32 }

/-- The instruction the decoder reads from a table word, none where it rejects. -/
def decodeTableWord (nbits w : Nat) : Option Instr :=
  match decode (tableRequest nbits w) with
  | .ok i => some i
  | .error _ => none

/-- The mnemonic of an instruction in spec/opcode_table.json. -/
def Instr.mnemonic : Instr → String
  | .rdData _ => "RD.DATA"
  | .rdStatus _ => "RD.STATUS"
  | .rdClkdiv _ => "RD.CLKDIV"
  | .rdSsel _ => "RD.SSEL"
  | .rdBank _ => "RD.BANK"
  | .wrData _ => "WR.DATA"
  | .wrCtrl _ => "WR.CTRL"
  | .wrClkdiv _ => "WR.CLKDIV"
  | .wrSsel _ => "WR.SSEL"
  | .wrBank _ => "WR.BANK"
  | .fwd _ => "FWD"
  | .qry _ => "QRY"
  | .seten0 => "SETEN.0"
  | .seten1 => "SETEN.1"
  | .load _ => "LOAD"

/-- One row of spec/opcode_table.json over a key of `n` bits: a key selects the row when `key & mask = pattern`
(R51). -/
structure TableRow (n : Nat) where
  mnemonic : String
  pattern : BitVec n
  mask : BitVec n
  deriving DecidableEq, Repr

/-- The key selects the row (R51). -/
def TableRow.selects {n : Nat} (row : TableRow n) (key : BitVec n) : Bool := (key &&& row.mask) == row.pattern

/-- The rows of format B: ten served keys (R52) and the seven disjoint patterns of the unmapped offsets (R53). -/
def busTable : List (TableRow 9) :=
  [ ⟨"RD.DATA", 0x0F0#9, 0x1FF#9⟩, ⟨"RD.STATUS", 0x0F1#9, 0x1FF#9⟩, ⟨"RD.CLKDIV", 0x0F2#9, 0x1FF#9⟩,
    ⟨"RD.SSEL", 0x0F3#9, 0x1FF#9⟩, ⟨"RD.BANK", 0x0F4#9, 0x1FF#9⟩,
    ⟨"WR.DATA", 0x1F0#9, 0x1FF#9⟩, ⟨"WR.CTRL", 0x1F1#9, 0x1FF#9⟩, ⟨"WR.CLKDIV", 0x1F2#9, 0x1FF#9⟩,
    ⟨"WR.SSEL", 0x1F3#9, 0x1FF#9⟩, ⟨"WR.BANK", 0x1F4#9, 0x1FF#9⟩,
    ⟨"FWD", 0x000#9, 0x080#9⟩, ⟨"FWD", 0x080#9, 0x0C0#9⟩, ⟨"FWD", 0x0C0#9, 0x0E0#9⟩, ⟨"FWD", 0x0E0#9, 0x0F0#9⟩,
    ⟨"FWD", 0x0F5#9, 0x0FF#9⟩, ⟨"FWD", 0x0F6#9, 0x0FE#9⟩, ⟨"FWD", 0x0F8#9, 0x0F8#9⟩ ]

/-- The rows of format C (R58). Slot 0 of the LOAD row is reserved (R59). -/
def controlTable : List (TableRow 5) :=
  [ ⟨"QRY", 0x00#5, 0x18#5⟩, ⟨"SETEN.0", 0x08#5, 0x1F#5⟩, ⟨"SETEN.1", 0x09#5, 0x1F#5⟩, ⟨"LOAD", 0x10#5, 0x18#5⟩ ]

end Sys2Proof
end

