-- ==== Sys2Proof/Machine/State.lean ====
section
/-! DEFINITION. The state: the eight cells of CardState (10_state.md R10), the collaborators' state the block touches
(R25: the ROM window, the emitted events), and the model's own fields (the response port, the calls made of
collaborators, their replies, the requests waiting at the ports). -/

namespace Sys2Proof.Machine

/-- The five registers (R14). -/
structure RegFile where
  data : Byte
  statctl : Byte
  clkdiv : Byte
  ssel : Byte
  bank : Byte
  deriving DecidableEq, Repr

/-- The bytes of the peripheral ROM window whose content is known, in canonical form: indices strictly rising
(R30 b). -/
abbrev Memory := List Host.Cell

/-- What an index that is not listed reads as: no value (DESIGN CHOICE, safe: log 2). The spec gives the window no
content before the block or the host writes it (R26, N27), and the block never reads it (R35). -/
def Memory.unlisted : Option Byte := none

/-- The list is strictly rising in its indices. No entry can equal what an unlisted index reads as, because that is
no value. -/
def Memory.wf : Memory → Bool
  | [] => true
  | [_] => true
  | c :: d :: m => decide (c.1 < d.1) && Memory.wf (d :: m)

/-- The events the block emits to its announce outputs (R25 b, c; decision D18 of the spec). -/
inductive Event where
  /-- `emit Register(s)`: the dispatcher is registered with the bus for slot `s` -/
  | register (s : Slot)
  /-- `emit CardType(s, tag)`: the card announces itself to the slot registry -/
  | cardType (s : Slot) (tag : Nat)
  deriving DecidableEq, Repr

/-- The calls the block makes of its collaborators (00_scope.md section 6, primitives). -/
inductive Call where
  /-- `RomWindow()` -/
  | romWindow
  /-- `FwFetch(id)` -/
  | fwFetch (id : Nat)
  /-- `Fallback(pc, addr, isWrite, data, cyclesRemaining)` -/
  | fallback (t : Transaction)
  deriving DecidableEq, Repr

/-- What an operation returns to its caller (R62, R142). -/
inductive Response where
  /-- SETEN and LOAD return nothing (R70, R71, R85) -/
  | nothing
  /-- a bus operation returns a byte (R50) -/
  | byte (b : Byte)
  /-- QRY returns a Boolean (R72) -/
  | bool (b : Bool)
  deriving DecidableEq, Repr

/-- The answers the collaborators will give, in the order in which each is asked. An answer that is not listed is a
free value of Config, drawn at the number `draws` (R6, R152; DESIGN CHOICE, safe: log 3). -/
structure Replies where
  /-- whether `RomWindow()` answers a window (R47) -/
  window : List Bool
  /-- what `FwFetch(FIRMWARE_ID)` answers (R86) -/
  firmware : List (Option (List Byte))
  /-- what the fallback handler answers (R103) -/
  fallback : List Byte
  /-- the number of the next free value -/
  draws : Nat
  deriving DecidableEq, Repr

/-- What the agents of R7 do, in the one total order of R40 (DESIGN CHOICE, safe: log 1). -/
inductive Stimulus where
  /-- the host bus or the configuration logic issues an operation -/
  | request (r : Request)
  /-- the host changes a byte of the ROM window between operations (R152; log 6) -/
  | hostWrite (index : Nat) (v : Byte)
  deriving DecidableEq, Repr

/-- The state of the machine. -/
structure State where
  /-- `enabled` (R11) -/
  enabled : Bool
  /-- `firmwareLoaded` (R12) -/
  firmwareLoaded : Bool
  /-- `slot` (R13) -/
  slot : Slot
  /-- the register file (R14) -/
  regs : RegFile
  /-- the length of the peripheral ROM window, ROMWIN_BYTES (R6; log 4) -/
  windowBytes : Nat
  /-- the peripheral ROM window (R25 a) -/
  rom : Memory
  /-- the events emitted so far, oldest first (R25 b, c) -/
  events : List Event
  /-- what the last operation returned (R62): the model's own field (log 7) -/
  response : Response
  /-- the calls made of collaborators so far, oldest first: the model's own field (log 7) -/
  calls : List Call
  /-- the answers the collaborators will give (R25 d, e): the model's own field (log 3) -/
  replies : Replies
  /-- what waits at the ports, in the order in which it takes effect (R40): the model's own field (log 1) -/
  pending : List Stimulus
  deriving DecidableEq, Repr

/-- The block raises no exception and a model's fault type for it is empty (R135): no step faults. -/
inductive Fault where
  deriving DecidableEq, Repr

/-- Why a step has no meaning. Each is safe: the spec gives these no step, and the model stops. -/
inductive Refusal where
  /-- Raised by exec for an instruction without a meaning. No arm raises it. Safe. -/
  | notModelled (mnemonic : String)
  /-- Raised by step for a command word that selects no operation (R59; log 9). Safe. -/
  | reservedCommand (c : CommandWord)
  /-- Raised by LOAD (and by SETEN for a `slot` no run reaches) for a slot outside 1 to 7 (R89; log 4).
  Safe. -/
  | slotOutOfRange (s : Slot)
  /-- Raised by LOAD and SETEN when the window is too short to hold the footprint of the slot
  (R89, R152; log 4). Safe. -/
  | windowTooShort (s : Slot)
  /-- Raised by step when the host writes an index outside the window, which is no byte of it
  (R152; log 6). Safe. -/
  | hostWriteOutsideWindow (index : Nat)
  deriving DecidableEq, Repr

/-- The machine right after reset (R26, R155, R156): disabled, not loaded, slot 7, all registers zero, no event
emitted, no content of the ROM window known (log 2). The model's own fields are empty (DESIGN CHOICE: log 1, 3, 7). -/
def State.reset : State :=
  { enabled := false
    firmwareLoaded := false
    slot := Config.slotDefault
    regs := { data := 0x00#8, statctl := 0x00#8, clkdiv := 0x00#8, ssel := 0x00#8, bank := 0x00#8 }
    windowBytes := Config.romWinBytes
    rom := []
    events := []
    response := .nothing
    calls := []
    replies := { window := [], firmware := [], fallback := [], draws := 0 }
    pending := [] }

end Sys2Proof.Machine
end

