-- ==== Sys2Proof/Machine/Flags.lean ====
section
/-! DEFINITION. The derived signals: `present` (10_state.md R20), the activation state (R27, 40_activation.md R73) and
the multiplexer's signals over the current state and inputs (42_dispatch.md R104). No operation sets an arithmetic flag
(R108). -/

namespace Sys2Proof.Machine

/-- `present = enabled ∧ firmwareLoaded` (R20): what `CardIsEnabled()` returns. -/
def State.present (s : State) : Bool := s.enabled && s.firmwareLoaded

/-- The four activation states (R27). -/
inductive Activation where
  | disabled
  | enabledNotLoaded
  | enabledLoaded
  | disabledStaleLoaded
  deriving DecidableEq, Repr

/-- The activation state is the pair (`enabled`, `firmwareLoaded`) (R73). -/
def State.activation (s : State) : Activation :=
  match s.enabled, s.firmwareLoaded with
  | false, false => .disabled
  | true, false => .enabledNotLoaded
  | true, true => .enabledLoaded
  | false, true => .disabledStaleLoaded

/-- `hit_k = (offset = 0xF0 + k)` (R104). -/
def hitReg (r : Reg) (t : Transaction) : Bool := decide (t.offset = r.offset)

/-- `hit = hit_0 ∨ hit_1 ∨ hit_2 ∨ hit_3 ∨ hit_4` (R104). -/
def hitAny (t : Transaction) : Bool :=
  hitReg .data t || hitReg .statctl t || hitReg .clkdiv t || hitReg .ssel t || hitReg .bank t

/-- `we_k = present ∧ isWrite ∧ hit_k` (R104). -/
def writeEnable (r : Reg) (t : Transaction) (s : State) : Bool := s.present && t.isWrite && hitReg r t

/-- `rd_k = present ∧ ¬isWrite ∧ hit_k` (R104). -/
def readSelect (r : Reg) (t : Transaction) (s : State) : Bool := s.present && !t.isWrite && hitReg r t

/-- `fwd = present ∧ ¬hit` (R104). -/
def fallbackRequest (t : Transaction) (s : State) : Bool := s.present && !(hitAny t)

/-- The next value of a register cell: `data` if its write enable holds, its old value otherwise (R104). -/
def nextReg (r : Reg) (old : Byte) (t : Transaction) (s : State) : Byte :=
  if writeEnable r t s then t.data else old

/-- The 7-way response multiplexer, with `fb` the byte the fallback handler answers when asked (R104). -/
def responseMux (fb : Byte) (t : Transaction) (s : State) : Byte :=
  if fallbackRequest t s then fb
  else if readSelect .data t s then s.regs.data
  else if readSelect .statctl t s then s.regs.statctl
  else if readSelect .clkdiv t s then s.regs.clkdiv
  else if readSelect .ssel t s then s.regs.ssel
  else if readSelect .bank t s then s.regs.bank
  else 0x00#8

end Sys2Proof.Machine
end

