-- ==== Sys2Proof/Machine/Ops.lean ====
section
/-! DEFINITION. The named operations the meanings share: the register file, the ROM window, the calls of the
collaborators, the response, the gate, the forwarded access, and the load and the zeroing of a footprint. There is no
taking of an exception and no return from one, because the block has none (60_exceptions.md R135, R142, R143). -/

namespace Sys2Proof.Machine

/-- The stored byte of a register (R14). -/
def RegFile.get (r : Reg) (f : RegFile) : Byte :=
  match r with
  | .data => f.data
  | .statctl => f.statctl
  | .clkdiv => f.clkdiv
  | .ssel => f.ssel
  | .bank => f.bank

/-- The file with all 8 bits of `v` stored in a register, verbatim (R14). -/
def RegFile.set (r : Reg) (v : Byte) (f : RegFile) : RegFile :=
  match r with
  | .data => { f with data := v }
  | .statctl => { f with statctl := v }
  | .clkdiv => { f with clkdiv := v }
  | .ssel => { f with ssel := v }
  | .bank => { f with bank := v }

/-- The content of a byte of the ROM window, or no value where none is known. No operation of the block uses it (R35):
it is there for statements. -/
def Memory.read (m : Memory) (a : Nat) : Option Byte :=
  match m with
  | [] => Memory.unlisted
  | c :: m => if c.1 = a then some c.2 else Memory.read m a

/-- `MemWrite(a, 1, v)`: one byte, the only width there is (00_scope.md section 6). -/
def Memory.write (m : Memory) (a : Nat) (v : Byte) : Memory :=
  match m with
  | [] => [(a, v)]
  | c :: m =>
    if a < c.1 then (a, v) :: c :: m
    else if a = c.1 then (a, v) :: m
    else c :: Memory.write m a v

/-- Consecutive bytes from index `a` on, keeping their order (R46). -/
def Memory.writeFrom (m : Memory) (a : Nat) (bytes : List Byte) : Memory :=
  match bytes with
  | [] => m
  | v :: bytes => Memory.writeFrom (Memory.write m a v) (a + 1) bytes

/-- What `RomWindow()` answers now: whether there is a window (R47). -/
def Replies.windowAnswer (r : Replies) : Bool :=
  match r.window with
  | b :: _ => b
  | [] => Config.freeWindow r.draws

/-- The replies that are left once `RomWindow()` has answered. -/
def Replies.afterWindow (r : Replies) : Replies :=
  match r.window with
  | _ :: rest => { r with window := rest }
  | [] => { r with draws := r.draws + 1 }

/-- What `FwFetch(FIRMWARE_ID)` answers now (R86). -/
def Replies.firmwareAnswer (r : Replies) : Option (List Byte) :=
  match r.firmware with
  | a :: _ => a
  | [] => Config.freeFirmware r.draws

/-- The replies that are left once `FwFetch` has answered. -/
def Replies.afterFirmware (r : Replies) : Replies :=
  match r.firmware with
  | _ :: rest => { r with firmware := rest }
  | [] => { r with draws := r.draws + 1 }

/-- What the fallback handler answers now to this call (R103). -/
def Replies.fallbackAnswer (r : Replies) (t : Transaction) : Byte :=
  match r.fallback with
  | b :: _ => b
  | [] => Config.freeFallback r.draws t

/-- The replies that are left once the fallback handler has answered. -/
def Replies.afterFallback (r : Replies) : Replies :=
  match r.fallback with
  | _ :: rest => { r with fallback := rest }
  | [] => { r with draws := r.draws + 1 }

/-- `return v`. -/
def State.respond (v : Response) (s : State) : State := { s with response := v }

/-- One call of `RomWindow()` (R47). -/
def State.callRomWindow (s : State) : State :=
  { s with calls := s.calls ++ [.romWindow], replies := s.replies.afterWindow }

/-- One call of `FwFetch(FIRMWARE_ID)` (R85). -/
def State.callFwFetch (s : State) : State :=
  { s with calls := s.calls ++ [.fwFetch Config.firmwareId], replies := s.replies.afterFirmware }

/-- One call of the fallback handler with the transaction as received (R103). -/
def State.callFallback (t : Transaction) (s : State) : State :=
  { s with calls := s.calls ++ [.fallback t], replies := s.replies.afterFallback }

/-- `emit Register(slot)`, then `emit CardType(slot, CARD_TYPE_TAG)` (R70, decisions D4 and D5 of the
spec; UNVERIFIED, unsafe: log 11). -/
def State.announce (s : State) : State :=
  { s with events := s.events ++ [.register s.slot, .cardType s.slot Config.cardTypeTag] }

/-- The gate (R101, decision D3 of the spec; UNVERIFIED, unsafe: log 8): an absent card answers 0x00 and does nothing
else. -/
def gate (serve : State → State) (s : State) : State :=
  if s.present then serve s else s.respond (.byte Config.neutral)

/-- A served read: the response is the stored byte, and nothing changes (R102, R39). -/
def serveRead (r : Reg) (s : State) : State := s.respond (.byte (s.regs.get r))

/-- A served write: the register takes the byte and the response is 0x00 (R102). -/
def serveWrite (r : Reg) (v : Byte) (s : State) : State :=
  State.respond (.byte Config.neutral) { s with regs := s.regs.set r v }

/-- A forwarded access: one call of the fallback handler, whose byte is the response, unmodified (R103). -/
def forward (t : Transaction) (s : State) : State :=
  (s.callFallback t).respond (.byte (s.replies.fallbackAnswer t))

/-- The contract of the accesses to a footprint (R89, R152; for SETEN DEDUCED, safe: log 4): the slot is 1 to 7 and
the footprint lies in the window; otherwise the name of what is wrong. -/
def footprintRefusal (sl : Slot) (s : State) : Option Refusal :=
  if sl = 0#3 then some (.slotOutOfRange sl)
  else if slotBase sl + 255 < s.windowBytes then none
  else some (.windowTooShort sl)

/-- The three effects of a successful load (R87). -/
def State.install (sl : Slot) (image : List Byte) (s : State) : State :=
  { s with slot := sl, rom := s.rom.writeFrom (slotBase sl) image, firmwareLoaded := true }

/-- What a load does with the firmware store's answer: nothing unless it is a sequence of exactly 256 bytes
(R86, R87). -/
def State.accept (sl : Slot) (answer : Option (List Byte)) (s : State) : State :=
  match answer with
  | none => s
  | some image => if image.length = Config.pageSize then s.install sl image else s

/-- The body of LOAD for a footprint that fits (R85). -/
def State.loadInto (sl : Slot) (s : State) : State :=
  if s.enabled then s.callFwFetch.accept sl s.replies.firmwareAnswer else s

/-- The 256 zero bytes a zeroing writes (R71). Irreducible, so that no unification unrolls 256 writes. -/
@[irreducible] def zeroPage : List Byte := List.replicate Config.pageSize 0x00#8

/-- The zeroing of the footprint of a slot: 256 bytes and nothing else (R71). -/
def State.zeroFootprint (sl : Slot) (s : State) : State :=
  { s with rom := s.rom.writeFrom (slotBase sl) zeroPage }

/-- Ask for the window and, where there is one, use the footprint of `slot` in it; where there is none, the rest of
the operation is skipped silently (R70, R71, R138; for SETEN.0 decision D6 of the spec, UNVERIFIED, unsafe: log 10).
A footprint outside the contract of R89 is refused. -/
def withWindow (use : State → State) (s : State) : Host.Outcome State Fault Refusal :=
  match footprintRefusal s.slot s with
  | none => .next (State.respond .nothing (if s.replies.windowAnswer then use s.callRomWindow else s.callRomWindow))
  | some r => if s.replies.windowAnswer then .refused r else .next (State.respond .nothing s.callRomWindow)

end Sys2Proof.Machine
end

