-- ==== Sys2Proof/Machine/Activation.lean ====
section
/-! DEFINITION. The activation operations SETEN.1, SETEN.0 and QRY (40_activation.md R70 to R72). -/

namespace Sys2Proof.Machine

/-- SETEN.1 (R70): a no-op on an enabled card; otherwise set `enabled`, announce, and attempt the load. -/
def execSeten1 (s : State) : Host.Outcome State Fault Refusal :=
  if s.enabled then .next (s.respond .nothing)
  else withWindow (State.loadInto s.slot) (State.announce { s with enabled := true })

/-- SETEN.0 (R71): a no-op on a disabled card; otherwise clear `enabled` and zero the footprint of `slot`. -/
def execSeten0 (s : State) : Host.Outcome State Fault Refusal :=
  if s.enabled then withWindow (State.zeroFootprint s.slot) { s with enabled := false }
  else .next (s.respond .nothing)

/-- QRY (R72): the Boolean `present`, whatever the argument bits. -/
def execQry (_arg : BitVec 3) (s : State) : Host.Outcome State Fault Refusal := .next (s.respond (.bool s.present))

end Sys2Proof.Machine
end

