-- ==== Sys2Proof/Machine/Forward.lean ====
section
/-! DEFINITION. The forwarded access FWD (42_dispatch.md R103). -/

namespace Sys2Proof.Machine

/-- FWD (R103). Whether an absent card forwards is ABSENT_FORWARDS_UNMAPPED: it does not (R101, conflict C1). -/
def execFwd (t : Transaction) (s : State) : Host.Outcome State Fault Refusal :=
  .next (if Config.absentForwardsUnmapped then forward t s else gate (forward t) s)

end Sys2Proof.Machine
end

