-- ==== Sys2Proof/Machine/Load.lean ====
section
/-! DEFINITION. The firmware load LOAD (41_firmware_load.md R85 to R91). -/

namespace Sys2Proof.Machine

/-- LOAD (R85) of the window at its port and the slot `sl`; refused outside its contract (R89). -/
def execLoad (sl : Slot) (s : State) : Host.Outcome State Fault Refusal :=
  match footprintRefusal sl s with
  | none => .next ((s.loadInto sl).respond .nothing)
  | some r => .refused r

end Sys2Proof.Machine
end

