-- ==== Sys2Proof/Machine/Reads.lean ====
section
/-! DEFINITION. The five register reads (43_register_reads.md R115 to R119). `data`, `pc`, `cyclesRemaining` and
`addr[15:8]` are ignored. -/

namespace Sys2Proof.Machine

/-- RD.DATA (R115). -/
def execRdData (_c : BusContext) (s : State) : Host.Outcome State Fault Refusal := .next (gate (serveRead .data) s)

/-- RD.STATUS (R116). -/
def execRdStatus (_c : BusContext) (s : State) : Host.Outcome State Fault Refusal :=
  .next (gate (serveRead .statctl) s)

/-- RD.CLKDIV (R117). -/
def execRdClkdiv (_c : BusContext) (s : State) : Host.Outcome State Fault Refusal :=
  .next (gate (serveRead .clkdiv) s)

/-- RD.SSEL (R118). -/
def execRdSsel (_c : BusContext) (s : State) : Host.Outcome State Fault Refusal := .next (gate (serveRead .ssel) s)

/-- RD.BANK (R119). -/
def execRdBank (_c : BusContext) (s : State) : Host.Outcome State Fault Refusal := .next (gate (serveRead .bank) s)

end Sys2Proof.Machine
end

