-- ==== Sys2Proof/Machine/Writes.lean ====
section
/-! DEFINITION. The five register writes (44_register_writes.md R125 to R129). `pc`, `cyclesRemaining` and `addr[15:8]`
are ignored. -/

namespace Sys2Proof.Machine

/-- WR.DATA (R125). -/
def execWrData (c : BusContext) (s : State) : Host.Outcome State Fault Refusal :=
  .next (gate (serveWrite .data c.data) s)

/-- WR.CTRL (R126). -/
def execWrCtrl (c : BusContext) (s : State) : Host.Outcome State Fault Refusal :=
  .next (gate (serveWrite .statctl c.data) s)

/-- WR.CLKDIV (R127). -/
def execWrClkdiv (c : BusContext) (s : State) : Host.Outcome State Fault Refusal :=
  .next (gate (serveWrite .clkdiv c.data) s)

/-- WR.SSEL (R128). -/
def execWrSsel (c : BusContext) (s : State) : Host.Outcome State Fault Refusal :=
  .next (gate (serveWrite .ssel c.data) s)

/-- WR.BANK (R129). -/
def execWrBank (c : BusContext) (s : State) : Host.Outcome State Fault Refusal :=
  .next (gate (serveWrite .bank c.data) s)

end Sys2Proof.Machine
end

