-- ==== Sys2Proof/Machine/Dispatch.lean ====
section
/-! DEFINITION. The dispatch of an instruction to its meaning: one arm per constructor. -/

namespace Sys2Proof.Machine

def exec (i : Instr) (s : State) : Host.Outcome State Fault Refusal :=
  match i with
  | .rdData c => Sys2Proof.Machine.execRdData c s
  | .rdStatus c => Sys2Proof.Machine.execRdStatus c s
  | .rdClkdiv c => Sys2Proof.Machine.execRdClkdiv c s
  | .rdSsel c => Sys2Proof.Machine.execRdSsel c s
  | .rdBank c => Sys2Proof.Machine.execRdBank c s
  | .wrData c => Sys2Proof.Machine.execWrData c s
  | .wrCtrl c => Sys2Proof.Machine.execWrCtrl c s
  | .wrClkdiv c => Sys2Proof.Machine.execWrClkdiv c s
  | .wrSsel c => Sys2Proof.Machine.execWrSsel c s
  | .wrBank c => Sys2Proof.Machine.execWrBank c s
  | .fwd t => Sys2Proof.Machine.execFwd t s
  | .qry arg => Sys2Proof.Machine.execQry arg s
  | .seten0 => Sys2Proof.Machine.execSeten0 s
  | .seten1 => Sys2Proof.Machine.execSeten1 s
  | .load sl => Sys2Proof.Machine.execLoad sl s

end Sys2Proof.Machine
end

