-- ==== Sys2Proof/Machine/Stimuli.lean ====
section
/-! DEFINITION. What a step takes from the ports: a request is decoded and run, a byte the host writes lands in the ROM
window (00_scope.md R7, 20_memory.md R40, R43, 60_exceptions.md R152). -/

namespace Sys2Proof.Machine

/-- The refusal of a command word the decoder rejects (R59). -/
def decodeRefusal : DecodeError → Refusal
  | .reservedSeten c => .reservedCommand c
  | .loadSlotZero c => .reservedCommand c
  | .reservedCode c => .reservedCommand c

/-- One operation of the host bus or of the configuration logic, whole and at once (R38, R40). -/
def runRequest (r : Request) (s : State) : Host.Outcome State Fault Refusal :=
  match decode r with
  | .ok i => exec i s
  | .error e => .refused (decodeRefusal e)

/-- The host changes one byte of its ROM window (R152). An index outside the window is no byte of it
(DESIGN CHOICE, safe: log 6). -/
def runHostWrite (index : Nat) (v : Byte) (s : State) : Host.Outcome State Fault Refusal :=
  if index < s.windowBytes then .next { s with rom := s.rom.write index v }
  else .refused (.hostWriteOutsideWindow index)

/-- One stimulus. -/
def runStimulus (x : Stimulus) (s : State) : Host.Outcome State Fault Refusal :=
  match x with
  | .request r => runRequest r s
  | .hostWrite index v => runHostWrite index v s

/-- `s` with the request of a table word waiting first at the ports. -/
def presentFirst (r : Request) (s : State) : State := { s with pending := .request r :: s.pending }

end Sys2Proof.Machine
end

