-- ==== Sys2Proof/Machine/Step.lean ====
section
/-! DEFINITION. The step: the block is passive (00_scope.md R7), so a step carries out the first thing that waits at its
ports; with nothing waiting the block is idle (70_reset_and_hazards.md R170; DESIGN CHOICE, safe: log 5). -/

namespace Sys2Proof.Machine

/-- One step. -/
def step (s : State) : Host.Outcome State Fault Refusal :=
  match s.pending with
  | [] => .next s
  | x :: rest => runStimulus x { s with pending := rest }

/-- `s` with the request of this table word waiting first, so that the next step runs it (log 1, 9). -/
def State.withFetchWord (s : State) (nbits w : Nat) : State := presentFirst (tableRequest nbits w) s

end Sys2Proof.Machine
end

