-- ==== Sys2Proof/Safety.lean ====
section
/-! DEFINITION. The terms of the claims: what every step keeps, and what the environment owes the block
(60_exceptions.md R152). -/

namespace Sys2Proof.Machine

/-- Every listed index of the ROM window lies in the window (R30 b). -/
def State.romInWindow (s : State) : Bool := s.rom.all fun c => decide (c.1 < s.windowBytes)

/-- What every step keeps: `slot` is 1 to 7 (R13), the window has at least 2048 bytes (R6), and the window's content is
in canonical form and inside the window. -/
abbrev Inv (s : State) : Prop :=
  s.slot ≠ 0#3 ∧ Config.romWinMin ≤ s.windowBytes ∧ s.rom.wf = true ∧ s.romInWindow = true

/-- A stimulus inside the contract of R152: a transaction, a command word that selects an operation, or a byte of the
window the host writes. -/
def withinContract (x : Stimulus) (s : State) : Prop :=
  match x with
  | .request (.bus _) => True
  | .request (.control c) => ∃ i, decodeControl c = .ok i
  | .hostWrite index _ => index < s.windowBytes

/-- The next state of an outcome, if it is one. -/
def nextState? (o : Host.Outcome State Fault Refusal) : Option State :=
  match o with
  | .next s => some s
  | .fault _ => none
  | .refused _ => none

/-- `k` steps, stopping at the first refusal. -/
def steps : Nat → State → Host.Outcome State Fault Refusal
  | 0, s => .next s
  | k + 1, s =>
    match step s with
    | .next s' => steps k s'
    | .fault f => .fault f
    | .refused r => .refused r

/-- The outcome with its next state, if any, changed by `f`. -/
def mapNext (f : State → State) : Host.Outcome State Fault Refusal → Host.Outcome State Fault Refusal
  | .next s => .next (f s)
  | .fault r => .fault r
  | .refused r => .refused r

/-- What is seen of a state by one who cannot see the content of the ROM window. -/
def State.forgetRom (s : State) : State := { s with rom := [] }

/-- The answer of the firmware store is one a load accepts: exactly 256 bytes (R86). -/
def imageOk : Option (List Byte) → Bool
  | some image => decide (image.length = 256)
  | none => false

/-- The footprint of `sl` lies in the window (R89). -/
abbrev fits (sl : Slot) (s : State) : Prop := sl ≠ 0#3 ∧ slotBase sl + 255 < s.windowBytes

/-- The number of `Register` events emitted so far. -/
def registerCount (s : State) : Nat :=
  (s.events.filter fun e => match e with | .register _ => true | .cardType _ _ => false).length

/-- The number of `CardType` events emitted so far. -/
def cardTypeCount (s : State) : Nat :=
  (s.events.filter fun e => match e with | .register _ => false | .cardType _ _ => true).length

/-- The number of enable transitions among the next `k` steps: steps that set `enabled` (00_scope.md section 7). -/
def enableTransitions : Nat → State → Nat
  | 0, _ => 0
  | k + 1, s =>
    match step s with
    | .next s' => (if !s.enabled && s'.enabled then 1 else 0) + enableTransitions k s'
    | .fault _ => 0
    | .refused _ => 0

/-- The value of register `r` after these transactions, made while the card is present: the latest byte written to it,
or the old value if none was (R40). -/
def lastWritten (r : Reg) (old : Byte) : List Transaction → Byte
  | [] => old
  | t :: ts => lastWritten r (if t.isWrite && decide (t.offset = r.offset) then t.data else old) ts

/-- The bus transactions as they wait at the bus port. -/
def busQueue (ts : List Transaction) : List Stimulus := ts.map fun t => .request (.bus t)

/-- The activation state after an operation by the table of R73, with `win` the answer of `RomWindow()` and `ok`
whether the firmware store's answer is one a load accepts. -/
def Activation.afterSeten1 (a : Activation) (win ok : Bool) : Activation :=
  match a with
  | .disabled => if win && ok then .enabledLoaded else .enabledNotLoaded
  | .enabledNotLoaded => .enabledNotLoaded
  | .enabledLoaded => .enabledLoaded
  | .disabledStaleLoaded => .enabledLoaded

/-- The column SETEN.0 of R73. -/
def Activation.afterSeten0 : Activation → Activation
  | .disabled => .disabled
  | .enabledNotLoaded => .disabled
  | .enabledLoaded => .disabledStaleLoaded
  | .disabledStaleLoaded => .disabledStaleLoaded

/-- The columns LOAD fails and LOAD ok of R73. -/
def Activation.afterLoad (a : Activation) (ok : Bool) : Activation :=
  match a with
  | .disabled => .disabled
  | .enabledNotLoaded => if ok then .enabledLoaded else .enabledNotLoaded
  | .enabledLoaded => .enabledLoaded
  | .disabledStaleLoaded => .disabledStaleLoaded

/-- The reserved command words, pattern by pattern: `01 01x`, `01 1xx`, `10 000`, `11 xxx` (R59). -/
def reservedWord (c : CommandWord) : Bool :=
  c.extractLsb' 1 4 == 0b0101#4 || c.extractLsb' 2 3 == 0b011#3 || c == 0b10000#5 || c.extractLsb' 3 2 == 0b11#2

end Sys2Proof.Machine
end

