-- ==== Sys2Proof/Certificates/Slice0/Obligations.lean ====
section
/-! DEFINITION. The statements for the provers. Each docstring names the rule or the section of spec/ it rests on, and
the log entry or the decision of the spec where it rests on a choice. -/

open Sys2Proof Sys2Proof.Machine

/-! ## Reset -/

/-- 10_state.md R26: the eight cells after reset, `present` false, the state Disabled, and no event emitted. (R26 leaves
the window's content unspecified: the statement says nothing of it.) -/
def Obligations.ResetCellsAsGiven : Prop :=
  State.reset.enabled = false ∧ State.reset.firmwareLoaded = false ∧ State.reset.slot = 7#3 ∧
  (∀ r, State.reset.regs.get r = 0x00#8) ∧ State.reset.present = false ∧
  State.reset.activation = .disabled ∧ State.reset.events = []

/-- The invariant of StepKeepsInvariant holds after reset. -/
def Obligations.ResetSatisfiesInvariant : Prop := Inv State.reset

/-! ## Decode and encode -/

/-- 30_encoding.md R52, R58: words written out from the tables decode to the instructions they stand for. -/
def Obligations.KnownWordsDecode : Prop :=
  decode (.bus (.rd 0xC0F0#16)) = .ok (.rdData ⟨0#16, 0xC0#8, 0#8, 0#32⟩) ∧
  decode (.bus (.rd 0xFFF4#16)) = .ok (.rdBank ⟨0#16, 0xFF#8, 0#8, 0#32⟩) ∧
  decode (.bus (.wr 0x12F1#16 0x7F#8)) = .ok (.wrCtrl ⟨0#16, 0x12#8, 0x7F#8, 0#32⟩) ∧
  decode (.bus (.rd 0xC0EF#16)) = .ok (.fwd (.rd 0xC0EF#16)) ∧
  decode (.bus (.wr 0xC0F5#16 0x99#8)) = .ok (.fwd (.wr 0xC0F5#16 0x99#8)) ∧
  decode (.control 0b00111#5) = .ok (.qry 0b111#3) ∧
  decode (.control 0b01000#5) = .ok .seten0 ∧
  decode (.control 0b01001#5) = .ok .seten1 ∧
  decode (.control 0b10011#5) = .ok (.load 3#3)

/-- Decode and encode agree: every well-formed instruction, with every operand at every value, decodes from its
encoding (30_encoding.md sections 1, 2 and 4). -/
def Obligations.DecodeOfEncodeIsIdentity : Prop :=
  ∀ i : Instr, i.wellFormed = true → decode (encode i) = .ok i

/-- The other direction: what decodes is well-formed, and no bit of the request is dropped (30_encoding.md sections 1,
2 and 4). -/
def Obligations.EncodeOfDecodeIsIdentity : Prop :=
  ∀ (r : Request) (i : Instr), decode r = .ok i → i.wellFormed = true ∧ encode i = r

/-- 30_encoding.md section 2: every decode key selects exactly one row of the table of format B, the operation the
decoder reads is that row's, and every offset outside the managed range, in either direction, selects FWD. -/
def Obligations.BusKeySelectsOneRow : Prop :=
  ∀ t : Transaction,
    (busTable.filter fun row => row.selects t.key).map (·.mnemonic) = [(decodeBus t).mnemonic] ∧
    ((∀ r : Reg, t.offset ≠ r.offset) → decode (.bus t) = .ok (.fwd t))

/-- 30_encoding.md section 4 (decision D13 of the spec, its own command words): a command word that is not reserved
selects exactly one row of the table of format C, the one the decoder reads, and a reserved word decodes to
nothing. -/
def Obligations.CommandWordSelectsOneRow : Prop :=
  ∀ c : CommandWord,
    (reservedWord c = true ∧ ∃ e, decode (.control c) = .error e) ∨
    (reservedWord c = false ∧ ∃ i, decode (.control c) = .ok i ∧
      (controlTable.filter fun row => row.selects c).map (·.mnemonic) = [i.mnemonic])

/-- 20_memory.md R31: two accesses that differ only in `addr[15:8]` select the same register, or are both forwarded; a
forwarded access hands the full address to the fallback handler; and `slot` takes no part: with another `slot` an access
does the same. -/
def Obligations.UpperAddressBitsTakeNoPartInDecode : Prop :=
  (∀ t t' : Transaction, t.addr.extractLsb' 0 8 = t'.addr.extractLsb' 0 8 → t.isWrite = t'.isWrite →
    (∃ r, (decode (.bus t) = .ok (readInstr r t.context) ∧ decode (.bus t') = .ok (readInstr r t'.context)) ∨
      (decode (.bus t) = .ok (writeInstr r t.context) ∧ decode (.bus t') = .ok (writeInstr r t'.context))) ∨
    (decode (.bus t) = .ok (.fwd t) ∧ decode (.bus t') = .ok (.fwd t') ∧
      ∀ s s', s.present = true → exec (.fwd t) s = .next s' → s'.calls = s.calls ++ [.fallback t])) ∧
  ∀ (t : Transaction) (i : Instr) (s : State) (sl : Slot), decode (.bus t) = .ok i →
    exec i { s with slot := sl } = mapNext (fun s' => { s' with slot := sl }) (exec i s)

/-! ## The step -/

/-- A step runs the request that waits first: the instruction it decodes to, on the state in which that request no
longer waits (00_scope.md section 5; that requests wait in a list is log entry 1). -/
def Obligations.StepRunsDecodedInstruction : Prop :=
  ∀ (s : State) (r : Request) (rest : List Stimulus) (i : Instr),
    s.pending = .request r :: rest → decode r = .ok i → step s = exec i { s with pending := rest }

/-- 30_encoding.md section 4 (decision D13 of the spec): a reserved command word is given no step. -/
def Obligations.ReservedCommandIsRefused : Prop :=
  ∀ (s : State) (c : CommandWord) (rest : List Stimulus),
    s.pending = .request (.control c) :: rest → reservedWord c = true → step s = .refused (.reservedCommand c)

/-- 60_exceptions.md section 7 and the model's choice of log entries 5 and 6: with nothing waiting a step changes
nothing; a byte the host writes lands in the window, changes nothing else, and is not noticed by the block; an index
outside the window is refused. -/
def Obligations.HostWriteChangesOneByteAndIdleNothing : Prop :=
  (∀ s : State, s.pending = [] → step s = .next s) ∧
  ∀ (s : State) (a : Nat) (v : Byte) (rest : List Stimulus), s.pending = .hostWrite a v :: rest →
    (a < s.windowBytes → ∃ m : Memory, step s = .next { s with rom := m, pending := rest } ∧
      ∀ b, m.read b = if b = a then some v else s.rom.read b) ∧
    (s.windowBytes ≤ a → step s = .refused (.hostWriteOutsideWindow a))

/-- Inside the contract of 60_exceptions.md section 7 every step gives a next state, and outside it none does; no step
faults. (What lies outside is decisions D9 and D13 of the spec and log entries 6 and 9.) -/
def Obligations.StepCompletesExactlyWithinContract : Prop :=
  (∀ (s : State) (x : Stimulus) (rest : List Stimulus), Inv s → s.pending = x :: rest →
    ((∃ s', step s = .next s') ↔ withinContract x s)) ∧
  ∀ (s : State) (f : Fault), step s ≠ .fault f

/-- 42_dispatch.md R105: the dispatcher is total and raises nothing; for every state and every transaction it returns a
byte, and that of an absent card or an unmapped offset is 0x00 or the fallback handler's. -/
def Obligations.DispatchIsTotal : Prop :=
  ∀ (t : Transaction) (s : State), ∃ (i : Instr) (s' : State) (b : Byte),
    decode (.bus t) = .ok i ∧ exec i s = .next s' ∧ s'.response = .byte b ∧
      (s.present = false ∨ Offset.hit t.offset = false → b = 0x00#8 ∨ b = s.replies.fallbackAnswer t)

/-! ## The bus operations -/

/-- 43_register_reads.md R115 to R119: each of the five low address bytes selects its read; the response is the stored
byte of its register if the card is present and 0x00 if it is absent; nothing else changes and the fallback handler is
not called. -/
def Obligations.ServedReadsAnswerTheirRegister : Prop :=
  ∀ (t : Transaction) (c : BusContext) (s : State),
    (t.isWrite = false → t.addr.extractLsb' 0 8 = 0xF0#8 →
      decode (.bus t) = .ok (.rdData t.context)) ∧
    exec (.rdData c) s =
      .next { s with response := .byte (if s.enabled && s.firmwareLoaded then s.regs.data else 0x00#8) } ∧
    (t.isWrite = false → t.addr.extractLsb' 0 8 = 0xF1#8 →
      decode (.bus t) = .ok (.rdStatus t.context)) ∧
    exec (.rdStatus c) s =
      .next { s with response := .byte (if s.enabled && s.firmwareLoaded then s.regs.statctl else 0x00#8) } ∧
    (t.isWrite = false → t.addr.extractLsb' 0 8 = 0xF2#8 →
      decode (.bus t) = .ok (.rdClkdiv t.context)) ∧
    exec (.rdClkdiv c) s =
      .next { s with response := .byte (if s.enabled && s.firmwareLoaded then s.regs.clkdiv else 0x00#8) } ∧
    (t.isWrite = false → t.addr.extractLsb' 0 8 = 0xF3#8 →
      decode (.bus t) = .ok (.rdSsel t.context)) ∧
    exec (.rdSsel c) s =
      .next { s with response := .byte (if s.enabled && s.firmwareLoaded then s.regs.ssel else 0x00#8) } ∧
    (t.isWrite = false → t.addr.extractLsb' 0 8 = 0xF4#8 →
      decode (.bus t) = .ok (.rdBank t.context)) ∧
    exec (.rdBank c) s =
      .next { s with response := .byte (if s.enabled && s.firmwareLoaded then s.regs.bank else 0x00#8) }

/-- 44_register_writes.md R125 to R129: each of the five low address bytes selects its write; its register takes
`data`, verbatim, if the card is present and keeps its value if it is absent; the response is 0x00; nothing else
changes and the fallback handler is not called. -/
def Obligations.ServedWritesStoreTheByte : Prop :=
  ∀ (t : Transaction) (c : BusContext) (s : State),
    (t.isWrite = true → t.addr.extractLsb' 0 8 = 0xF0#8 →
      decode (.bus t) = .ok (.wrData t.context)) ∧
    exec (.wrData c) s = .next { s with
      regs := { s.regs with data := if s.enabled && s.firmwareLoaded then c.data else s.regs.data }
      response := .byte 0x00#8 } ∧
    (t.isWrite = true → t.addr.extractLsb' 0 8 = 0xF1#8 →
      decode (.bus t) = .ok (.wrCtrl t.context)) ∧
    exec (.wrCtrl c) s = .next { s with
      regs := { s.regs with statctl := if s.enabled && s.firmwareLoaded then c.data else s.regs.statctl }
      response := .byte 0x00#8 } ∧
    (t.isWrite = true → t.addr.extractLsb' 0 8 = 0xF2#8 →
      decode (.bus t) = .ok (.wrClkdiv t.context)) ∧
    exec (.wrClkdiv c) s = .next { s with
      regs := { s.regs with clkdiv := if s.enabled && s.firmwareLoaded then c.data else s.regs.clkdiv }
      response := .byte 0x00#8 } ∧
    (t.isWrite = true → t.addr.extractLsb' 0 8 = 0xF3#8 →
      decode (.bus t) = .ok (.wrSsel t.context)) ∧
    exec (.wrSsel c) s = .next { s with
      regs := { s.regs with ssel := if s.enabled && s.firmwareLoaded then c.data else s.regs.ssel }
      response := .byte 0x00#8 } ∧
    (t.isWrite = true → t.addr.extractLsb' 0 8 = 0xF4#8 →
      decode (.bus t) = .ok (.wrBank t.context)) ∧
    exec (.wrBank c) s = .next { s with
      regs := { s.regs with bank := if s.enabled && s.firmwareLoaded then c.data else s.regs.bank }
      response := .byte 0x00#8 }

/-- 42_dispatch.md section 4: FWD on a present card makes one call of the fallback handler with the transaction as
received and returns its byte, and changes no cell. FWD on an absent card answers 0x00 without a call: that clause is
conflict C1's resolution, decision D3 of the spec. The call log and the replies are the model's own fields
(log entries 3 and 7). -/
def Obligations.ForwardedAccessAnswersFallback : Prop :=
  ∀ (t : Transaction) (s : State),
    (s.present = true → exec (.fwd t) s = .next { s with
      calls := s.calls ++ [.fallback t]
      replies := s.replies.afterFallback
      response := .byte (s.replies.fallbackAnswer t) }) ∧
    (s.present = false → exec (.fwd t) s = .next { s with response := .byte 0x00#8 })

/-- 10_state.md R21: no bus operation writes `enabled`, `firmwareLoaded` or `slot`. -/
def Obligations.BusOperationsKeepControlCells : Prop :=
  ∀ (t : Transaction) (i : Instr) (s : State), decode (.bus t) = .ok i →
    ∃ s', exec i s = .next s' ∧
      s'.enabled = s.enabled ∧ s'.firmwareLoaded = s.firmwareLoaded ∧ s'.slot = s.slot

/-- An absent card is invisible (60_exceptions.md section 1; for unmapped offsets this is conflict C1's resolution,
decision D3 of the spec): every transaction, mapped or not, in either direction, answers 0x00, changes nothing and calls
no collaborator. -/
def Obligations.AbsentCardIsInvisible : Prop :=
  ∀ (t : Transaction) (i : Instr) (s : State), s.present = false → decode (.bus t) = .ok i →
    exec i s = .next { s with response := .byte 0x00#8 }

/-- 42_dispatch.md R107: on every path but the forwarded one, `pc`, `cyclesRemaining` and, on a read, `data` have no
effect; on the forwarded path the whole transaction reaches the fallback handler unchanged. -/
def Obligations.PassThroughInputsHaveNoEffect : Prop :=
  ∀ (t t' : Transaction) (s : State),
    (t.offset = t'.offset → t.isWrite = t'.isWrite → (t.isWrite = true → t.data = t'.data) →
      fallbackRequest t s = false → exec (decodeBus t) s = exec (decodeBus t') s) ∧
    (fallbackRequest t s = true → ∃ s', exec (decodeBus t) s = .next s' ∧ s'.calls = s.calls ++ [.fallback t])

/-- The dispatcher equals the multiplexer: for every transaction and state, what the decoded instruction does is what
the equations of 42_dispatch.md section 5 give for every cell, the response and the call of the fallback handler, and
at most one of `fwd`, `rd_0` to `rd_4` holds. (The spec derives the equations from its dispatcher; the gate before the
decode is decision D3 of the spec.) -/
def Obligations.DispatcherEqualsMultiplexer : Prop :=
  ∀ (t : Transaction) (s : State),
    exec (decodeBus t) s = .next { s with
      regs :=
        { data := nextReg .data s.regs.data t s
          statctl := nextReg .statctl s.regs.statctl t s
          clkdiv := nextReg .clkdiv s.regs.clkdiv t s
          ssel := nextReg .ssel s.regs.ssel t s
          bank := nextReg .bank s.regs.bank t s }
      response := .byte (responseMux (s.replies.fallbackAnswer t) t s)
      calls := if fallbackRequest t s then s.calls ++ [.fallback t] else s.calls
      replies := if fallbackRequest t s then s.replies.afterFallback else s.replies } ∧
    ([fallbackRequest t s, readSelect .data t s, readSelect .statctl t s, readSelect .clkdiv t s,
      readSelect .ssel t s, readSelect .bank t s].filter id).length ≤ 1

/-- No bus operation reads or writes `slot` or the window: changing them before it changes nothing but them after it
(42_dispatch.md section 3, 20_memory.md section 3, 70_reset_and_hazards.md section 3). -/
def Obligations.BusOperationsNeitherReadNorWriteSlotOrWindow : Prop :=
  ∀ (t : Transaction) (s : State) (sl : Slot) (m : Memory) (n : Nat),
    exec (decodeBus t) { s with slot := sl, rom := m, windowBytes := n } =
      mapNext (fun s' => { s' with slot := sl, rom := m, windowBytes := n }) (exec (decodeBus t) s)

/-- The register round trip (95_test_vectors.md S1): while the card is present, a write and then a read of the same
register, each through any address with the register's low byte, returns the byte written. -/
def Obligations.RegisterRoundTrip : Prop :=
  ∀ (s : State) (r : Reg) (w t : Transaction) (rest : List Stimulus),
    s.present = true → w.isWrite = true → t.isWrite = false → w.offset = r.offset → t.offset = r.offset →
    s.pending = .request (.bus w) :: .request (.bus t) :: rest →
    ∃ s', steps 2 s = .next s' ∧ s'.response = .byte w.data ∧ s'.regs = s.regs.set r w.data ∧ s'.pending = rest

/-- The latest write wins (20_memory.md section 5): after any sequence of bus transactions to a present card, a read
of a register returns the latest byte written to it, or the value it held before the sequence if there is none. -/
def Obligations.ReadReturnsLatestWrite : Prop :=
  ∀ (ts : List Transaction) (s : State) (r : Reg) (t : Transaction) (rest : List Stimulus),
    s.present = true → t.isWrite = false → t.offset = r.offset →
    s.pending = busQueue ts ++ .request (.bus t) :: rest →
    ∃ s', steps (ts.length + 1) s = .next s' ∧ s'.pending = rest ∧ s'.present = true ∧
      s'.response = .byte (lastWritten r (s.regs.get r) ts) ∧
      ∀ q, s'.regs.get q = lastWritten q (s.regs.get q) ts

/-- A register changes only by a served write (10_state.md section 5): if a step changes a register, the first thing
waiting was a write to that register's offset on a present card, and the register holds its byte. -/
def Obligations.RegisterChangesOnlyByServedWrite : Prop :=
  ∀ (s s' : State) (r : Reg), step s = .next s' → s'.regs.get r ≠ s.regs.get r →
    ∃ (t : Transaction) (rest : List Stimulus), s.pending = .request (.bus t) :: rest ∧
      s.present = true ∧ t.isWrite = true ∧ t.offset = r.offset ∧ s'.regs.get r = t.data

/-! ## The activation operations -/

/-- The query (40_activation.md section 3; the command word is decision D13 of the spec): `00 xxx` is QRY, whatever its
argument; it returns `enabled ∧ firmwareLoaded`, writes no cell, emits nothing and calls no collaborator. -/
def Obligations.QueryReturnsPresent : Prop :=
  (∀ c : CommandWord, c.extractLsb' 3 2 = 0b00#2 → ∃ arg, decode (.control c) = .ok (.qry arg)) ∧
  ∀ (arg : BitVec 3) (s : State),
    exec (.qry arg) s = .next { s with response := .bool (s.enabled && s.firmwareLoaded) }

/-- 40_activation.md sections 1 and 2: SETEN.1 on an enabled card and SETEN.0 on a disabled card do nothing at all. -/
def Obligations.RepeatedSetEnabledIsNoOp : Prop :=
  ∀ s : State,
    (s.enabled = true → exec .seten1 s = .next { s with response := .nothing }) ∧
    (s.enabled = false → exec .seten0 s = .next { s with response := .nothing })

/-- The enable transition (40_activation.md section 1; its slot and the order of its events are decisions D4 and D5 of
the spec, the place of the footprint is D8): `enabled` is set and both events are emitted; without a window nothing
more; with one, the firmware is fetched once, and exactly an image of 256 bytes is copied to the footprint of `slot` and
sets `firmwareLoaded`. -/
def Obligations.EnableTransitionEffects : Prop :=
  ∀ s : State, s.enabled = false → fits s.slot s →
    (s.replies.windowAnswer = false → exec .seten1 s = .next { s with
      enabled := true
      events := s.events ++ [.register s.slot, .cardType s.slot Config.cardTypeTag]
      calls := s.calls ++ [.romWindow]
      replies := s.replies.afterWindow
      response := .nothing }) ∧
    (s.replies.windowAnswer = true → imageOk s.replies.afterWindow.firmwareAnswer = false →
      exec .seten1 s = .next { s with
        enabled := true
        events := s.events ++ [.register s.slot, .cardType s.slot Config.cardTypeTag]
        calls := s.calls ++ [.romWindow, .fwFetch Config.firmwareId]
        replies := s.replies.afterWindow.afterFirmware
        response := .nothing }) ∧
    (∀ image, s.replies.windowAnswer = true → s.replies.afterWindow.firmwareAnswer = some image →
      image.length = 256 → exec .seten1 s = .next { s with
        enabled := true
        firmwareLoaded := true
        rom := s.rom.writeFrom (slotBase s.slot) image
        events := s.events ++ [.register s.slot, .cardType s.slot Config.cardTypeTag]
        calls := s.calls ++ [.romWindow, .fwFetch Config.firmwareId]
        replies := s.replies.afterWindow.afterFirmware
        response := .nothing })

/-- The disable transition (40_activation.md section 2; what happens without a window is decision D6 of the spec, that
nothing else happens is D7, the place of the footprint is D8): `enabled` is cleared; with a window, the bytes of the
footprint of `slot` read 0x00 and every other byte reads as before; `firmwareLoaded`, `slot`, the registers and the
events stay. -/
def Obligations.DisableTransitionZeroesExactlyFootprint : Prop :=
  ∀ s : State, s.enabled = true → fits s.slot s →
    ∃ m : Memory, exec .seten0 s = .next { s with
        enabled := false
        rom := m
        calls := s.calls ++ [.romWindow]
        replies := s.replies.afterWindow
        response := .nothing } ∧
      ∀ a, m.read a =
        if s.replies.windowAnswer && inFootprint s.slot a then some 0x00#8 else s.rom.read a

/-- 40_activation.md section 4, the transition table: every operation in every state, whatever the replies. -/
def Obligations.ActivationFollowsTransitionTable : Prop :=
  (∀ s s', exec .seten1 s = .next s' → s'.activation =
    s.activation.afterSeten1 s.replies.windowAnswer (imageOk s.replies.afterWindow.firmwareAnswer)) ∧
  (∀ s s', exec .seten0 s = .next s' → s'.activation = s.activation.afterSeten0) ∧
  (∀ sl s s', exec (.load sl) s = .next s' → s'.activation = s.activation.afterLoad (imageOk s.replies.firmwareAnswer)) ∧
  (∀ arg s s', exec (.qry arg) s = .next s' → s'.activation = s.activation) ∧
  (∀ t s s', exec (decodeBus t) s = .next s' → s'.activation = s.activation)

/-- Re-enabling (40_activation.md section 4, 95_test_vectors.md S7; that the registers are kept is decision D24 of the
spec, the disable without a window is D6, the place of the footprint is D8): disabling and enabling again a card that
was enabled and loaded makes it present again, with its registers as they were and the round trip as before, whatever
the window and the firmware store answer; outside the footprint the window reads as before. -/
def Obligations.ReenableRestoresPresence : Prop :=
  ∀ (s : State) (r : Reg) (w t : Transaction) (rest : List Stimulus),
    s.enabled = true → s.firmwareLoaded = true → fits s.slot s →
    w.isWrite = true → t.isWrite = false → w.offset = r.offset → t.offset = r.offset →
    s.pending = .request (encode .seten0) :: .request (encode .seten1) :: .request (.bus w) :: .request (.bus t) :: rest →
    (∃ s2, steps 2 s = .next s2 ∧ s2.present = true ∧ s2.regs = s.regs ∧
      ∀ a, inFootprint s.slot a = false → s2.rom.read a = s.rom.read a) ∧
    ∃ s4, steps 4 s = .next s4 ∧ s4.response = .byte w.data

/-- The stale loaded flag (70_reset_and_hazards.md section 3): a card that was loaded, disabled with a window and
enabled again without one is present although every byte of its footprint reads 0x00. -/
def Obligations.PresentDoesNotImplyImage : Prop :=
  ∀ (s : State) (rest : List Stimulus), s.enabled = true → s.firmwareLoaded = true → fits s.slot s →
    s.replies.windowAnswer = true → s.replies.afterWindow.windowAnswer = false →
    s.pending = .request (encode .seten0) :: .request (encode .seten1) :: rest →
    ∃ s', steps 2 s = .next s' ∧ s'.present = true ∧ ∀ a, inFootprint s.slot a = true → s'.rom.read a = some 0x00#8

/-- Announcements (95_test_vectors.md Part 4, law 13): over any run, the `Register` events and the `CardType` events
emitted are each as many as the enable transitions. -/
def Obligations.AnnouncementsCountEnableTransitions : Prop :=
  ∀ (k : Nat) (s s' : State), steps k s = .next s' →
    registerCount s' = registerCount s + enableTransitions k s ∧
    cardTypeCount s' = cardTypeCount s + enableTransitions k s

/-- `firmwareLoaded` is sticky (10_state.md section 8): once true, it is true after every run. -/
def Obligations.FirmwareLoadedIsSticky : Prop :=
  ∀ (k : Nat) (s s' : State), steps k s = .next s' → s.firmwareLoaded = true → s'.firmwareLoaded = true

/-! ## The load and the ROM window -/

/-- LOAD inside its contract (41_firmware_load.md section 1; the place of the footprint is decision D8 of the spec, the
failure on a loaded card is D20): nothing on a card that is not enabled; one fetch and no other effect unless the answer
is exactly 256 bytes; otherwise `slot`, the footprint and `firmwareLoaded`. -/
def Obligations.LoadEffects : Prop :=
  ∀ (sl : Slot) (s : State), fits sl s →
    (s.enabled = false → exec (.load sl) s = .next { s with response := .nothing }) ∧
    (s.enabled = true → imageOk s.replies.firmwareAnswer = false → exec (.load sl) s = .next { s with
      calls := s.calls ++ [.fwFetch Config.firmwareId]
      replies := s.replies.afterFirmware
      response := .nothing }) ∧
    (∀ image, s.enabled = true → s.replies.firmwareAnswer = some image → image.length = 256 →
      exec (.load sl) s = .next { s with
        firmwareLoaded := true
        slot := sl
        rom := s.rom.writeFrom (slotBase sl) image
        calls := s.calls ++ [.fwFetch Config.firmwareId]
        replies := s.replies.afterFirmware
        response := .nothing })

/-- The copy of a successful LOAD (20_memory.md section 3; the place of the footprint is decision D8 of the spec):
byte i of the footprint reads as byte i of the image, and every other byte as before. -/
def Obligations.LoadCopiesImageInOrder : Prop :=
  ∀ (sl : Slot) (s : State) (image : List Byte), fits sl s → s.enabled = true →
    s.replies.firmwareAnswer = some image → image.length = 256 →
    ∃ s', exec (.load sl) s = .next s' ∧
      (∀ i, i < 256 → s'.rom.read (slotBase sl + i) = image[i]?) ∧
      ∀ a, inFootprint sl a = false → s'.rom.read a = s.rom.read a

/-- LOAD outside its contract has no step (41_firmware_load.md section 1; decision D9 of the spec): slot 0, and a window
too short for the footprint. -/
def Obligations.LoadOutsideContractIsRefused : Prop :=
  ∀ s : State, exec (.load 0#3) s = .refused (.slotOutOfRange 0#3) ∧
    ∀ sl : Slot, sl ≠ 0#3 → s.windowBytes ≤ slotBase sl + 255 → exec (.load sl) s = .refused (.windowTooShort sl)

/-- A LOAD that moves the slot (41_firmware_load.md section 1, 70_reset_and_hazards.md section 3; that it emits nothing
is decision D18 of the spec, the place of the footprints is D8): the old footprint keeps its content through the LOAD
and through the next disable, which zeroes the new one. -/
def Obligations.MovingSlotLeavesOldFootprint : Prop :=
  ∀ (s : State) (sl : Slot) (rest : List Stimulus), s.enabled = true → s.slot ≠ 0#3 → sl ≠ s.slot → fits sl s →
    imageOk s.replies.firmwareAnswer = true → s.replies.afterFirmware.windowAnswer = true →
    s.pending = .request (encode (.load sl)) :: .request (encode .seten0) :: rest →
    ∃ s1 s2, steps 1 s = .next s1 ∧ s1.slot = sl ∧ s1.events = s.events ∧
      steps 2 s = .next s2 ∧ s2.slot = sl ∧ s2.events = s.events ∧
      (∀ a, inFootprint s.slot a = true → s1.rom.read a = s.rom.read a ∧ s2.rom.read a = s.rom.read a) ∧
      ∀ a, inFootprint sl a = true → s2.rom.read a = some 0x00#8

/-- The writers of the window (20_memory.md section 3; the place of the footprint is decision D8 of the spec): it is
written only by SETEN.0, LOAD and the LOAD inside SETEN.1, and only inside the footprint; no bus operation and no query
writes it; a SETEN.0 that clears `enabled` and has a window zeroes the whole footprint. -/
def Obligations.WindowWrittenOnlyInsideFootprint : Prop :=
  (∀ (s s' : State) (a : Nat), exec .seten0 s = .next s' →
    (inFootprint s.slot a = false → s'.rom.read a = s.rom.read a) ∧
    (s.enabled = true → s.replies.windowAnswer = true → inFootprint s.slot a = true → s'.rom.read a = some 0x00#8)) ∧
  (∀ (s s' : State) (a : Nat), exec .seten1 s = .next s' → inFootprint s.slot a = false →
    s'.rom.read a = s.rom.read a) ∧
  (∀ (sl : Slot) (s s' : State) (a : Nat), exec (.load sl) s = .next s' → inFootprint sl a = false →
    s'.rom.read a = s.rom.read a) ∧
  (∀ (arg : BitVec 3) (s s' : State), exec (.qry arg) s = .next s' → s'.rom = s.rom) ∧
  (∀ (t : Transaction) (s s' : State), exec (decodeBus t) s = .next s' → s'.rom = s.rom)

/-- Footprints (20_memory.md section 3, decision D8 of the spec): those of different slots do not overlap, and each lies
in the indices 256 to 2047. -/
def Obligations.FootprintsAreDisjoint : Prop :=
  ∀ (p q : Slot) (a : Nat), p ≠ 0#3 → inFootprint p a = true →
    256 ≤ a ∧ a < 2048 ∧ (inFootprint q a = true → p = q)

/-- Indices 0 to 255 and 2048 and above are never written by the block (95_test_vectors.md Part 4, law 9; decision D8 of
the spec): over any run in which the host writes nothing, they read as before. -/
def Obligations.IndicesOfNoSlotAreNeverWritten : Prop :=
  ∀ (k : Nat) (s s' : State) (a : Nat), (∀ i v, .hostWrite i v ∉ s.pending) → a < 256 ∨ 2048 ≤ a →
    steps k s = .next s' → s'.rom.read a = s.rom.read a

/-- The block never reads the ROM window (20_memory.md section 3): two runs from states that differ only in the window's
content differ only in it, whatever happens. -/
def Obligations.WindowContentIsNeverRead : Prop :=
  ∀ (k : Nat) (s : State) (m : Memory),
    mapNext State.forgetRom (steps k { s with rom := m }) = mapNext State.forgetRom (steps k s)

/-- Control operations keep the registers (10_state.md section 8; decision D24 of the spec). -/
def Obligations.ControlOperationsKeepRegisters : Prop :=
  ∀ (c : CommandWord) (i : Instr) (s s' : State), decode (.control c) = .ok i → exec i s = .next s' →
    s'.regs = s.regs

/-! ## The invariant -/

/-- Every step keeps the invariant: `slot` is 1 to 7 (10_state.md section 2), the window keeps at least 2048 bytes,
and its content stays in canonical form and inside it. -/
def Obligations.StepKeepsInvariant : Prop :=
  ∀ s s' : State, Inv s → step s = .next s' → Inv s'
end

