-- ==== Sys2Proof/Laws/Memory.lean ====
section
/-! SUPPORT. The laws of the ROM window: a read after a write, the canonical form, and the indices listed. -/

namespace Sys2Proof.Machine

/-! ## Reading -/

@[simp] theorem Memory.read_nil (a : Nat) : Memory.read [] a = none := rfl

theorem Memory.read_cons (c : Host.Cell) (m : Memory) (a : Nat) :
    Memory.read (c :: m) a = if c.1 = a then some c.2 else Memory.read m a := rfl

/-- A write sets the byte it writes and leaves every other byte alone. -/
theorem Memory.read_write (m : Memory) (a : Nat) (v : Byte) (b : Nat) :
    (m.write a v).read b = if b = a then some v else m.read b := by
  induction m with
  | nil => simp only [Memory.write, Memory.read_cons, Memory.read_nil, eq_comm (a := a)]
  | cons c m ih =>
    simp only [Memory.write]
    split
    · rw [Memory.read_cons]
      simp only [eq_comm (a := a)]
    · split
      · rename_i h
        rw [Memory.read_cons, Memory.read_cons]
        simp only [eq_comm (a := a)]
        subst h
        split <;> rename_i h
        · rfl
        · rw [if_neg (fun e => h e.symm)]
      · rename_i h
        rw [Memory.read_cons, Memory.read_cons, ih]
        split
        · rename_i e
          rw [if_neg (by omega)]
        · rfl

/-- Consecutive writes set exactly the bytes of their range. -/
theorem Memory.read_writeFrom (m : Memory) (a : Nat) (bytes : List Byte) (b : Nat) :
    (m.writeFrom a bytes).read b = if a ≤ b ∧ b < a + bytes.length then bytes[b - a]? else m.read b := by
  induction bytes generalizing m a with
  | nil =>
    rw [if_neg (by simp only [List.length_nil]; omega)]
    rfl
  | cons v bytes ih =>
    rw [Memory.writeFrom, ih, Memory.read_write, List.length_cons]
    by_cases h : b = a
    · subst h
      rw [if_neg (by omega), if_pos rfl, if_pos (by omega), Nat.sub_self]
      rfl
    · rw [if_neg h]
      by_cases h' : a + 1 ≤ b ∧ b < a + 1 + bytes.length
      · rw [if_pos h', if_pos (by omega)]
        obtain ⟨k, rfl⟩ : ∃ k, b = a + 1 + k := ⟨b - (a + 1), by omega⟩
        rw [show a + 1 + k - (a + 1) = k by omega, show a + 1 + k - a = k + 1 by omega]
        rfl
      · rw [if_neg h', if_neg (by omega)]

theorem Memory.read_writeFrom_outside (m : Memory) {a : Nat} {bytes : List Byte} {b : Nat}
    (h : b < a ∨ a + bytes.length ≤ b) : (m.writeFrom a bytes).read b = m.read b := by
  rw [Memory.read_writeFrom, if_neg (by omega)]

theorem Memory.read_writeFrom_inside (m : Memory) {a i : Nat} {bytes : List Byte} (h : i < bytes.length) :
    (m.writeFrom a bytes).read (a + i) = some bytes[i] := by
  rw [Memory.read_writeFrom, if_pos (by omega), Nat.add_sub_cancel_left, List.getElem?_eq_getElem h]

/-! ## The canonical form -/

@[simp] theorem Memory.wf_nil : Memory.wf [] = true := rfl

theorem Memory.wf_cons (c : Host.Cell) (m : Memory) :
    Memory.wf (c :: m) = true ↔ (∀ d ∈ m.head?, c.1 < d.1) ∧ Memory.wf m = true := by
  cases m with
  | nil => simp [Memory.wf]
  | cons d m => simp [Memory.wf]

theorem Memory.write_head (m : Memory) (a : Nat) (v : Byte) (d : Host.Cell) (h : d ∈ (m.write a v).head?) :
    d.1 = a ∨ d ∈ m.head? := by
  cases m with
  | nil =>
    simp only [Memory.write, List.head?_cons, Option.mem_def, Option.some.injEq] at h
    exact .inl (by rw [← h])
  | cons c m =>
    simp only [Memory.write] at h
    split at h
    · simp only [List.head?_cons, Option.mem_def, Option.some.injEq] at h
      exact .inl (by rw [← h])
    · split at h
      · simp only [List.head?_cons, Option.mem_def, Option.some.injEq] at h
        exact .inl (by rw [← h])
      · exact .inr h

/-- A write keeps the canonical form. -/
theorem Memory.write_wf (m : Memory) (a : Nat) (v : Byte) (h : m.wf = true) : (m.write a v).wf = true := by
  induction m with
  | nil => rfl
  | cons c m ih =>
    obtain ⟨hc, hm⟩ := (Memory.wf_cons c m).1 h
    simp only [Memory.write]
    split
    · rename_i hac
      refine (Memory.wf_cons _ _).2 ⟨?_, h⟩
      intro d hd
      simp only [List.head?_cons, Option.mem_def, Option.some.injEq] at hd
      exact hd ▸ hac
    · split
      · rename_i hac
        refine (Memory.wf_cons _ _).2 ⟨?_, hm⟩
        intro d hd
        exact hac ▸ hc d hd
      · refine (Memory.wf_cons _ _).2 ⟨?_, ih hm⟩
        intro d hd
        rcases Memory.write_head m a v d hd with e | e
        · omega
        · exact hc d e

theorem Memory.writeFrom_wf (m : Memory) (a : Nat) (bytes : List Byte) (h : m.wf = true) :
    (m.writeFrom a bytes).wf = true := by
  induction bytes generalizing m a with
  | nil => exact h
  | cons v bytes ih => exact ih (m.write a v) (a + 1) (Memory.write_wf m a v h)

theorem reset_rom_wf : State.reset.rom.wf = true := rfl

/-! ## The indices listed -/

theorem Memory.mem_write (m : Memory) (a : Nat) (v : Byte) (c : Host.Cell) (h : c ∈ m.write a v) :
    c = (a, v) ∨ c ∈ m := by
  induction m with
  | nil => exact .inl (List.mem_singleton.1 h)
  | cons d m ih =>
    simp only [Memory.write] at h
    split at h
    · exact List.mem_cons.1 h
    · split at h
      · rcases List.mem_cons.1 h with e | e
        · exact .inl e
        · exact .inr (List.mem_cons_of_mem d e)
      · rcases List.mem_cons.1 h with e | e
        · exact .inr (e ▸ List.mem_cons_self)
        · exact (ih e).imp id (List.mem_cons_of_mem d)

/-- A write of an index below `n` keeps every listed index below `n`. -/
theorem Memory.write_below (m : Memory) (n a : Nat) (v : Byte) (h : ∀ c ∈ m, c.1 < n) (ha : a < n) :
    ∀ c ∈ m.write a v, c.1 < n := by
  intro c hc
  rcases Memory.mem_write m a v c hc with rfl | e
  · exact ha
  · exact h c e

theorem Memory.writeFrom_below (m : Memory) (n a : Nat) (bytes : List Byte) (h : ∀ c ∈ m, c.1 < n)
    (ha : a + bytes.length ≤ n) : ∀ c ∈ m.writeFrom a bytes, c.1 < n := by
  induction bytes generalizing m a with
  | nil => exact h
  | cons v bytes ih =>
    rw [List.length_cons] at ha
    exact ih _ _ (Memory.write_below m n a v h (by omega)) (by omega)

/-! ## The page of zeros -/

@[simp] theorem zeroPage_length : zeroPage.length = 256 := by
  rw [zeroPage, List.length_replicate]
  rfl

theorem zeroPage_getElem {i : Nat} (h : i < zeroPage.length) : zeroPage[i] = 0x00#8 := by
  simp only [zeroPage, List.getElem_replicate]

end Sys2Proof.Machine
end

