-- ==== Sys2Proof/Laws/Operands.lean ====
section
/-! SUPPORT. The laws of the operand forms: the fields of a transaction, the decode of an offset, the command word and
the footprint. -/

namespace Sys2Proof

/-! ## The fields of a transaction -/

theorem extract_low_append (p o : BitVec 8) : BitVec.extractLsb' 0 8 (p ++ o : BitVec 16) = o := by
  ext i hi
  simp only [BitVec.getElem_extractLsb', BitVec.getLsbD_append]
  simp only [Nat.zero_add, hi, if_true]
  exact (BitVec.getLsbD_eq_getElem hi)

theorem extract_high_append (p o : BitVec 8) : BitVec.extractLsb' 8 8 (p ++ o : BitVec 16) = p := by
  ext i hi
  simp only [BitVec.getElem_extractLsb', BitVec.getLsbD_append]
  rw [if_neg (by omega), Nat.add_sub_cancel_left]
  exact (BitVec.getLsbD_eq_getElem hi)

theorem append_extract (a : Addr) : (BitVec.extractLsb' 8 8 a ++ BitVec.extractLsb' 0 8 a : BitVec 16) = a := by
  ext i hi
  simp only [BitVec.getElem_append, BitVec.getElem_extractLsb']
  split
  · rw [Nat.zero_add]
    exact BitVec.getLsbD_eq_getElem hi
  · rw [show 8 + (i - 8) = i by omega]
    exact BitVec.getLsbD_eq_getElem hi

@[simp] theorem offset_access (c : BusContext) (w : Bool) (o : Offset) : (c.access w o).offset = o :=
  extract_low_append c.page o

@[simp] theorem isWrite_access (c : BusContext) (w : Bool) (o : Offset) : (c.access w o).isWrite = w := rfl

@[simp] theorem context_access (c : BusContext) (w : Bool) (o : Offset) : (c.access w o).context = c := by
  have h := extract_high_append c.page o
  cases c
  simp only [Transaction.context, BusContext.access] at h ⊢
  rw [h]

/-- The context, the direction and the offset are all there is in a transaction. -/
@[simp] theorem access_context (t : Transaction) : t.context.access t.isWrite t.offset = t := by
  have h := append_extract t.addr
  cases t
  simp only [Transaction.context, BusContext.access, Transaction.offset] at h ⊢
  rw [h]

@[simp] theorem context_data (t : Transaction) : t.context.data = t.data := rfl

/-- `addr[7:0] = addr mod 256` (R108 a). -/
theorem offset_toNat (t : Transaction) : t.offset.toNat = t.addr.toNat % 256 := by
  simp [Transaction.offset, BitVec.extractLsb'_toNat]

/-! ## The decode of an offset -/

@[simp] theorem ofOffset_offset (r : Reg) : Reg.ofOffset r.offset = some r := by cases r <;> decide

/-- An offset selects a register exactly when it is the register's offset. -/
theorem ofOffset_eq_some {o : Offset} {r : Reg} : Reg.ofOffset o = some r ↔ o = r.offset := by
  constructor
  · intro h
    unfold Reg.ofOffset at h
    repeat' split at h
    all_goals first | (cases h; assumption) | cases h
  · rintro rfl
    exact ofOffset_offset r

/-- An offset selects no register exactly when it lies outside the managed range (R53). -/
theorem ofOffset_eq_none : ∀ {o : Offset}, Reg.ofOffset o = none ↔ Offset.hit o = false := by decide +kernel

theorem offset_injective {q r : Reg} (h : q.offset = r.offset) : q = r := by
  have := ofOffset_offset q
  rw [h, ofOffset_offset] at this
  exact (Option.some.inj this).symm

/-- `reg[k]` is at offset `0xF0 + k` (R14). -/
theorem offset_eq_base_add_index (r : Reg) : r.offset.toNat = Config.regBase.toNat + r.index := by cases r <;> rfl

theorem index_lt_numRegs (r : Reg) : r.index < Config.numRegs := by cases r <;> decide

/-- The bus decode by the direction and the register the offset selects. -/
theorem decodeBus_some {t : Transaction} {r : Reg} (h : Reg.ofOffset t.offset = some r) :
    decodeBus t = if t.isWrite then writeInstr r t.context else readInstr r t.context := by
  rw [decodeBus, h]

theorem decodeBus_none {t : Transaction} (h : Reg.ofOffset t.offset = none) : decodeBus t = .fwd t := by
  rw [decodeBus, h]

/-- All that a bus transaction can select. -/
theorem decodeBus_cases (t : Transaction) :
    (∃ r, t.offset = r.offset ∧ t.isWrite = true ∧ decodeBus t = writeInstr r t.context) ∨
    (∃ r, t.offset = r.offset ∧ t.isWrite = false ∧ decodeBus t = readInstr r t.context) ∨
    (Offset.hit t.offset = false ∧ decodeBus t = .fwd t) := by
  cases h : Reg.ofOffset t.offset with
  | none => exact .inr (.inr ⟨ofOffset_eq_none.1 h, decodeBus_none h⟩)
  | some r =>
    have ho := ofOffset_eq_some.1 h
    have hd := decodeBus_some h
    cases hw : t.isWrite with
    | true => exact .inl ⟨r, ho, rfl, by rw [hd, hw, if_pos rfl]⟩
    | false => exact .inr (.inl ⟨r, ho, rfl, by rw [hd, hw]; rfl⟩)

/-! ## The command word -/

@[simp] theorem code_make : ∀ (code : BitVec 2) (arg : BitVec 3), CommandWord.code (CommandWord.make code arg) = code := by
  decide +kernel

@[simp] theorem arg_make : ∀ (code : BitVec 2) (arg : BitVec 3), CommandWord.arg (CommandWord.make code arg) = arg := by
  decide +kernel

@[simp] theorem make_code_arg : ∀ c : CommandWord, CommandWord.make (CommandWord.code c) (CommandWord.arg c) = c := by
  decide +kernel

/-! ## The footprint -/

theorem inFootprint_iff {s : Slot} {a : Nat} : inFootprint s a = true ↔ slotBase s ≤ a ∧ a < slotBase s + 256 := by
  rw [inFootprint, Bool.and_eq_true, decide_eq_true_eq, decide_eq_true_eq]
  rfl

/-- `s * 256 + i` lies in 256 to 2047 for a valid slot (R108 f). -/
theorem slotBase_bounds {s : Slot} (h : s ≠ 0#3) : 256 ≤ slotBase s ∧ slotBase s + 255 < Config.romWinMin := by
  have h1 : s.toNat < 8 := s.isLt
  have h2 : s.toNat ≠ 0 := fun e => h (BitVec.eq_of_toNat_eq e)
  simp only [slotBase, Config.pageSize, Config.romWinMin]
  omega

end Sys2Proof
end

