-- ==== Sys2Proof/Laws/State.lean ====
section
/-! SUPPORT. One lemma per field per named update of State, and the register file read after a write. -/

namespace Sys2Proof.Machine

/-! ## The register file -/

@[simp] theorem RegFile.get_set_self (r : Reg) (v : Byte) (f : RegFile) : (f.set r v).get r = v := by
  cases r <;> rfl

theorem RegFile.get_set_other {q r : Reg} (h : q ≠ r) (v : Byte) (f : RegFile) : (f.set r v).get q = f.get q := by
  cases q <;> cases r <;> first | rfl | exact absurd rfl h

theorem RegFile.get_set (q r : Reg) (v : Byte) (f : RegFile) : (f.set r v).get q = if q = r then v else f.get q := by
  by_cases h : q = r
  · rw [if_pos h, h, RegFile.get_set_self]
  · rw [if_neg h, RegFile.get_set_other h]

theorem RegFile.ext_get {f g : RegFile} (h : ∀ r, f.get r = g.get r) : f = g := by
  cases f
  cases g
  have h0 := h .data
  have h1 := h .statctl
  have h2 := h .clkdiv
  have h3 := h .ssel
  have h4 := h .bank
  simp only [RegFile.get] at h0 h1 h2 h3 h4
  simp only [h0, h1, h2, h3, h4]

/-! ## `State.respond` -/

@[simp] theorem State.respond_enabled (s : State) (v : Response) : (s.respond v).enabled = s.enabled := rfl
@[simp] theorem State.respond_firmwareLoaded (s : State) (v : Response) :
    (s.respond v).firmwareLoaded = s.firmwareLoaded := rfl
@[simp] theorem State.respond_slot (s : State) (v : Response) : (s.respond v).slot = s.slot := rfl
@[simp] theorem State.respond_regs (s : State) (v : Response) : (s.respond v).regs = s.regs := rfl
@[simp] theorem State.respond_windowBytes (s : State) (v : Response) :
    (s.respond v).windowBytes = s.windowBytes := rfl
@[simp] theorem State.respond_rom (s : State) (v : Response) : (s.respond v).rom = s.rom := rfl
@[simp] theorem State.respond_events (s : State) (v : Response) : (s.respond v).events = s.events := rfl
@[simp] theorem State.respond_response (s : State) (v : Response) : (s.respond v).response = v := rfl
@[simp] theorem State.respond_calls (s : State) (v : Response) : (s.respond v).calls = s.calls := rfl
@[simp] theorem State.respond_replies (s : State) (v : Response) : (s.respond v).replies = s.replies := rfl
@[simp] theorem State.respond_pending (s : State) (v : Response) : (s.respond v).pending = s.pending := rfl

/-! ## `State.callRomWindow` -/

@[simp] theorem State.callRomWindow_enabled (s : State) : s.callRomWindow.enabled = s.enabled := rfl
@[simp] theorem State.callRomWindow_firmwareLoaded (s : State) :
    s.callRomWindow.firmwareLoaded = s.firmwareLoaded := rfl
@[simp] theorem State.callRomWindow_slot (s : State) : s.callRomWindow.slot = s.slot := rfl
@[simp] theorem State.callRomWindow_regs (s : State) : s.callRomWindow.regs = s.regs := rfl
@[simp] theorem State.callRomWindow_windowBytes (s : State) : s.callRomWindow.windowBytes = s.windowBytes := rfl
@[simp] theorem State.callRomWindow_rom (s : State) : s.callRomWindow.rom = s.rom := rfl
@[simp] theorem State.callRomWindow_events (s : State) : s.callRomWindow.events = s.events := rfl
@[simp] theorem State.callRomWindow_response (s : State) : s.callRomWindow.response = s.response := rfl
@[simp] theorem State.callRomWindow_calls (s : State) : s.callRomWindow.calls = s.calls ++ [.romWindow] := rfl
@[simp] theorem State.callRomWindow_replies (s : State) : s.callRomWindow.replies = s.replies.afterWindow := rfl
@[simp] theorem State.callRomWindow_pending (s : State) : s.callRomWindow.pending = s.pending := rfl

/-! ## `State.callFwFetch` -/

@[simp] theorem State.callFwFetch_enabled (s : State) : s.callFwFetch.enabled = s.enabled := rfl
@[simp] theorem State.callFwFetch_firmwareLoaded (s : State) : s.callFwFetch.firmwareLoaded = s.firmwareLoaded := rfl
@[simp] theorem State.callFwFetch_slot (s : State) : s.callFwFetch.slot = s.slot := rfl
@[simp] theorem State.callFwFetch_regs (s : State) : s.callFwFetch.regs = s.regs := rfl
@[simp] theorem State.callFwFetch_windowBytes (s : State) : s.callFwFetch.windowBytes = s.windowBytes := rfl
@[simp] theorem State.callFwFetch_rom (s : State) : s.callFwFetch.rom = s.rom := rfl
@[simp] theorem State.callFwFetch_events (s : State) : s.callFwFetch.events = s.events := rfl
@[simp] theorem State.callFwFetch_response (s : State) : s.callFwFetch.response = s.response := rfl
@[simp] theorem State.callFwFetch_calls (s : State) :
    s.callFwFetch.calls = s.calls ++ [.fwFetch Config.firmwareId] := rfl
@[simp] theorem State.callFwFetch_replies (s : State) : s.callFwFetch.replies = s.replies.afterFirmware := rfl
@[simp] theorem State.callFwFetch_pending (s : State) : s.callFwFetch.pending = s.pending := rfl

/-! ## `State.callFallback` -/

@[simp] theorem State.callFallback_enabled (s : State) (t : Transaction) :
    (s.callFallback t).enabled = s.enabled := rfl
@[simp] theorem State.callFallback_firmwareLoaded (s : State) (t : Transaction) :
    (s.callFallback t).firmwareLoaded = s.firmwareLoaded := rfl
@[simp] theorem State.callFallback_slot (s : State) (t : Transaction) : (s.callFallback t).slot = s.slot := rfl
@[simp] theorem State.callFallback_regs (s : State) (t : Transaction) : (s.callFallback t).regs = s.regs := rfl
@[simp] theorem State.callFallback_windowBytes (s : State) (t : Transaction) :
    (s.callFallback t).windowBytes = s.windowBytes := rfl
@[simp] theorem State.callFallback_rom (s : State) (t : Transaction) : (s.callFallback t).rom = s.rom := rfl
@[simp] theorem State.callFallback_events (s : State) (t : Transaction) : (s.callFallback t).events = s.events := rfl
@[simp] theorem State.callFallback_response (s : State) (t : Transaction) :
    (s.callFallback t).response = s.response := rfl
@[simp] theorem State.callFallback_calls (s : State) (t : Transaction) :
    (s.callFallback t).calls = s.calls ++ [.fallback t] := rfl
@[simp] theorem State.callFallback_replies (s : State) (t : Transaction) :
    (s.callFallback t).replies = s.replies.afterFallback := rfl
@[simp] theorem State.callFallback_pending (s : State) (t : Transaction) :
    (s.callFallback t).pending = s.pending := rfl

/-! ## `State.announce` -/

@[simp] theorem State.announce_enabled (s : State) : s.announce.enabled = s.enabled := rfl
@[simp] theorem State.announce_firmwareLoaded (s : State) : s.announce.firmwareLoaded = s.firmwareLoaded := rfl
@[simp] theorem State.announce_slot (s : State) : s.announce.slot = s.slot := rfl
@[simp] theorem State.announce_regs (s : State) : s.announce.regs = s.regs := rfl
@[simp] theorem State.announce_windowBytes (s : State) : s.announce.windowBytes = s.windowBytes := rfl
@[simp] theorem State.announce_rom (s : State) : s.announce.rom = s.rom := rfl
@[simp] theorem State.announce_events (s : State) :
    s.announce.events = s.events ++ [.register s.slot, .cardType s.slot Config.cardTypeTag] := rfl
@[simp] theorem State.announce_response (s : State) : s.announce.response = s.response := rfl
@[simp] theorem State.announce_calls (s : State) : s.announce.calls = s.calls := rfl
@[simp] theorem State.announce_replies (s : State) : s.announce.replies = s.replies := rfl
@[simp] theorem State.announce_pending (s : State) : s.announce.pending = s.pending := rfl

/-! ## `State.install` -/

@[simp] theorem State.install_enabled (s : State) (sl : Slot) (image : List Byte) :
    (s.install sl image).enabled = s.enabled := rfl
@[simp] theorem State.install_firmwareLoaded (s : State) (sl : Slot) (image : List Byte) :
    (s.install sl image).firmwareLoaded = true := rfl
@[simp] theorem State.install_slot (s : State) (sl : Slot) (image : List Byte) : (s.install sl image).slot = sl := rfl
@[simp] theorem State.install_regs (s : State) (sl : Slot) (image : List Byte) :
    (s.install sl image).regs = s.regs := rfl
@[simp] theorem State.install_windowBytes (s : State) (sl : Slot) (image : List Byte) :
    (s.install sl image).windowBytes = s.windowBytes := rfl
@[simp] theorem State.install_rom (s : State) (sl : Slot) (image : List Byte) :
    (s.install sl image).rom = s.rom.writeFrom (slotBase sl) image := rfl
@[simp] theorem State.install_events (s : State) (sl : Slot) (image : List Byte) :
    (s.install sl image).events = s.events := rfl
@[simp] theorem State.install_response (s : State) (sl : Slot) (image : List Byte) :
    (s.install sl image).response = s.response := rfl
@[simp] theorem State.install_calls (s : State) (sl : Slot) (image : List Byte) :
    (s.install sl image).calls = s.calls := rfl
@[simp] theorem State.install_replies (s : State) (sl : Slot) (image : List Byte) :
    (s.install sl image).replies = s.replies := rfl
@[simp] theorem State.install_pending (s : State) (sl : Slot) (image : List Byte) :
    (s.install sl image).pending = s.pending := rfl

/-! ## `State.zeroFootprint` -/

@[simp] theorem State.zeroFootprint_enabled (s : State) (sl : Slot) : (s.zeroFootprint sl).enabled = s.enabled := rfl
@[simp] theorem State.zeroFootprint_firmwareLoaded (s : State) (sl : Slot) :
    (s.zeroFootprint sl).firmwareLoaded = s.firmwareLoaded := rfl
@[simp] theorem State.zeroFootprint_slot (s : State) (sl : Slot) : (s.zeroFootprint sl).slot = s.slot := rfl
@[simp] theorem State.zeroFootprint_regs (s : State) (sl : Slot) : (s.zeroFootprint sl).regs = s.regs := rfl
@[simp] theorem State.zeroFootprint_windowBytes (s : State) (sl : Slot) :
    (s.zeroFootprint sl).windowBytes = s.windowBytes := rfl
@[simp] theorem State.zeroFootprint_rom (s : State) (sl : Slot) :
    (s.zeroFootprint sl).rom = s.rom.writeFrom (slotBase sl) zeroPage := rfl
@[simp] theorem State.zeroFootprint_events (s : State) (sl : Slot) : (s.zeroFootprint sl).events = s.events := rfl
@[simp] theorem State.zeroFootprint_response (s : State) (sl : Slot) :
    (s.zeroFootprint sl).response = s.response := rfl
@[simp] theorem State.zeroFootprint_calls (s : State) (sl : Slot) : (s.zeroFootprint sl).calls = s.calls := rfl
@[simp] theorem State.zeroFootprint_replies (s : State) (sl : Slot) : (s.zeroFootprint sl).replies = s.replies := rfl
@[simp] theorem State.zeroFootprint_pending (s : State) (sl : Slot) : (s.zeroFootprint sl).pending = s.pending := rfl

end Sys2Proof.Machine
end

