-- ==== Sys2Proof/Laws/Ops.lean ====
section
/-! SUPPORT. For each shared operation, one lemma that says all it can do. -/

namespace Sys2Proof.Machine

/-! ## The gate and the bus operations -/

theorem gate_present {s : State} (h : s.present = true) (serve : State → State) : gate serve s = serve s := by
  rw [gate, if_pos h]

theorem gate_absent {s : State} (h : s.present = false) (serve : State → State) :
    gate serve s = s.respond (.byte 0x00#8) := by
  rw [gate, h]
  rfl

theorem serveRead_eq (r : Reg) (s : State) : serveRead r s = { s with response := .byte (s.regs.get r) } := rfl

theorem serveWrite_eq (r : Reg) (v : Byte) (s : State) :
    serveWrite r v s = { s with regs := s.regs.set r v, response := .byte 0x00#8 } := rfl

theorem forward_eq (t : Transaction) (s : State) :
    forward t s = { s with calls := s.calls ++ [.fallback t], replies := s.replies.afterFallback,
                           response := .byte (s.replies.fallbackAnswer t) } := rfl

theorem exec_readInstr (r : Reg) (c : BusContext) (s : State) :
    exec (readInstr r c) s = .next (gate (serveRead r) s) := by
  cases r <;> rfl

theorem exec_writeInstr (r : Reg) (c : BusContext) (s : State) :
    exec (writeInstr r c) s = .next (gate (serveWrite r c.data) s) := by
  cases r <;> rfl

theorem exec_fwd (t : Transaction) (s : State) : exec (.fwd t) s = .next (gate (forward t) s) := rfl

/-! ## The load -/

theorem footprintRefusal_none {sl : Slot} {s : State} :
    footprintRefusal sl s = none ↔ sl ≠ 0#3 ∧ slotBase sl + 255 < s.windowBytes := by
  unfold footprintRefusal
  by_cases h : sl = 0#3
  · simp [h]
  · by_cases h' : slotBase sl + 255 < s.windowBytes
    · simp [h, h']
    · simp [h, h']

/-- Inside the contract of R152 the footprint of a valid slot always fits. -/
theorem footprintRefusal_valid {sl : Slot} {s : State} (h : sl ≠ 0#3) (hw : Config.romWinMin ≤ s.windowBytes) :
    footprintRefusal sl s = none :=
  footprintRefusal_none.2 ⟨h, Nat.lt_of_lt_of_le (slotBase_bounds h).2 hw⟩

/-- All that the firmware store's answer can lead to. -/
theorem accept_cases (sl : Slot) (answer : Option (List Byte)) (s : State) :
    (∃ image, answer = some image ∧ image.length = 256 ∧ s.accept sl answer = s.install sl image) ∨
    ((∀ image, answer = some image → image.length ≠ 256) ∧ s.accept sl answer = s) := by
  cases answer with
  | none => exact .inr ⟨fun _ h => (by cases h), rfl⟩
  | some image =>
    by_cases h : image.length = 256
    · exact .inl ⟨image, rfl, h, if_pos h⟩
    · exact .inr ⟨fun _ e => (by cases e; exact h), if_neg h⟩

/-- All that the body of a load can do. -/
theorem loadInto_cases (sl : Slot) (s : State) :
    (s.enabled = false ∧ s.loadInto sl = s) ∨
    (s.enabled = true ∧ s.loadInto sl = s.callFwFetch ∧
      ∀ image, s.replies.firmwareAnswer = some image → image.length ≠ 256) ∨
    (s.enabled = true ∧ ∃ image, s.replies.firmwareAnswer = some image ∧ image.length = 256 ∧
      s.loadInto sl = s.callFwFetch.install sl image) := by
  cases h : s.enabled with
  | false => exact .inl ⟨rfl, by rw [State.loadInto, h]; rfl⟩
  | true =>
    have e : s.loadInto sl = s.callFwFetch.accept sl s.replies.firmwareAnswer := by rw [State.loadInto, h, if_pos rfl]
    rcases accept_cases sl s.replies.firmwareAnswer s.callFwFetch with ⟨image, h1, h2, h3⟩ | ⟨h1, h2⟩
    · exact .inr (.inr ⟨rfl, image, h1, h2, e.trans h3⟩)
    · exact .inr (.inl ⟨rfl, e.trans h2, h1⟩)

/-- All that the use of the window can do when it gives a next state. -/
theorem withWindow_cases {use : State → State} {s s' : State} (h : withWindow use s = .next s') :
    (s.replies.windowAnswer = false ∧ s' = State.respond .nothing s.callRomWindow) ∨
    (s.replies.windowAnswer = true ∧ footprintRefusal s.slot s = none ∧
      s' = State.respond .nothing (use s.callRomWindow)) := by
  unfold withWindow at h
  cases hf : footprintRefusal s.slot s with
  | none =>
    rw [hf] at h
    cases hw : s.replies.windowAnswer with
    | false => rw [hw] at h; cases h; exact .inl ⟨rfl, rfl⟩
    | true => rw [hw] at h; cases h; exact .inr ⟨rfl, rfl, rfl⟩
  | some r =>
    rw [hf] at h
    cases hw : s.replies.windowAnswer with
    | false => rw [hw] at h; cases h; exact .inl ⟨rfl, rfl⟩
    | true => rw [hw] at h; cases h

/-- Inside the contract the use of the window always gives a next state. -/
theorem withWindow_fits {use : State → State} {s : State} (h : footprintRefusal s.slot s = none) :
    withWindow use s =
      .next (State.respond .nothing (if s.replies.windowAnswer then use s.callRomWindow else s.callRomWindow)) := by
  rw [withWindow, h]

end Sys2Proof.Machine
end

