-- ==== Sys2Proof/Laws/PerInstr.lean ====
section
/-! SUPPORT. The statements about every instruction as syntax, one lemma per constructor. -/

namespace Sys2Proof.Laws.EncodePort

/-- The port an instruction belongs to by the table's formats: true for format B (R50), false for format C (R57). -/
def onBus : Instr → Bool
  | .rdData _ => true
  | .rdStatus _ => true
  | .rdClkdiv _ => true
  | .rdSsel _ => true
  | .rdBank _ => true
  | .wrData _ => true
  | .wrCtrl _ => true
  | .wrClkdiv _ => true
  | .wrSsel _ => true
  | .wrBank _ => true
  | .fwd _ => true
  | .qry _ => false
  | .seten0 => false
  | .seten1 => false
  | .load _ => false

/-- The encoder presents an instruction at the port of its format. -/
def Statement (i : Instr) : Prop :=
  match encode i with
  | .bus _ => onBus i = true
  | .control _ => onBus i = false

theorem rdData (c : BusContext) : Statement (.rdData c) := rfl
theorem rdStatus (c : BusContext) : Statement (.rdStatus c) := rfl
theorem rdClkdiv (c : BusContext) : Statement (.rdClkdiv c) := rfl
theorem rdSsel (c : BusContext) : Statement (.rdSsel c) := rfl
theorem rdBank (c : BusContext) : Statement (.rdBank c) := rfl
theorem wrData (c : BusContext) : Statement (.wrData c) := rfl
theorem wrCtrl (c : BusContext) : Statement (.wrCtrl c) := rfl
theorem wrClkdiv (c : BusContext) : Statement (.wrClkdiv c) := rfl
theorem wrSsel (c : BusContext) : Statement (.wrSsel c) := rfl
theorem wrBank (c : BusContext) : Statement (.wrBank c) := rfl
theorem fwd (t : Transaction) : Statement (.fwd t) := rfl
theorem qry (arg : BitVec 3) : Statement (.qry arg) := rfl
theorem seten0 : Statement .seten0 := rfl
theorem seten1 : Statement .seten1 := rfl
theorem load (slot : Slot) : Statement (.load slot) := rfl

end Sys2Proof.Laws.EncodePort
end

