-- ==== Sys2Proof/Laws/Step.lean ====
section
/-! SUPPORT. What a control operation, a load and a step can do, said once each, and the zeroing and the copy of a
footprint read byte by byte. -/

namespace Sys2Proof.Machine

/-! ## Footprints read byte by byte -/

/-- A zeroing sets the bytes of the footprint to 0x00 and leaves the others alone (R71). -/
theorem Memory.read_zeroFootprint (m : Memory) (sl : Slot) (a : Nat) :
    (m.writeFrom (slotBase sl) zeroPage).read a = if inFootprint sl a then some 0x00#8 else m.read a := by
  by_cases h : inFootprint sl a = true
  · obtain ⟨h1, h2⟩ := inFootprint_iff.1 h
    obtain ⟨k, rfl⟩ : ∃ k, a = slotBase sl + k := ⟨a - slotBase sl, by omega⟩
    rw [if_pos h, Memory.read_writeFrom_inside _ (by rw [zeroPage_length]; omega), zeroPage_getElem]
  · rw [if_neg h, Memory.read_writeFrom_outside]
    rw [inFootprint_iff] at h
    rw [zeroPage_length]
    omega

/-- A copy of a 256-byte image leaves the bytes outside the footprint alone (R87). -/
theorem Memory.read_image_outside (m : Memory) {sl : Slot} {a : Nat} {image : List Byte} (hl : image.length = 256)
    (h : inFootprint sl a = false) : (m.writeFrom (slotBase sl) image).read a = m.read a := by
  rw [Memory.read_writeFrom_outside]
  have : ¬(inFootprint sl a = true) := by rw [h]; exact Bool.false_ne_true
  rw [inFootprint_iff] at this
  omega

/-! ## The firmware store's answer -/

theorem imageOk_eq_false {a : Option (List Byte)} :
    imageOk a = false ↔ ∀ image, a = some image → image.length ≠ 256 := by
  cases a <;> simp [imageOk]

theorem imageOk_eq_true {a : Option (List Byte)} :
    imageOk a = true ↔ ∃ image, a = some image ∧ image.length = 256 := by
  cases a <;> simp [imageOk]

/-! ## The control operations -/

theorem footprintRefusal_fits {sl : Slot} {s : State} : footprintRefusal sl s = none ↔ fits sl s :=
  footprintRefusal_none

/-- What a load leaves alone: everything but `firmwareLoaded`, `slot`, the window, the calls and the replies. -/
theorem loadInto_keeps (sl : Slot) (s : State) :
    (s.loadInto sl).regs = s.regs ∧ (s.loadInto sl).enabled = s.enabled ∧
    (s.loadInto sl).windowBytes = s.windowBytes ∧ (s.loadInto sl).events = s.events ∧
    (s.loadInto sl).pending = s.pending ∧ (s.firmwareLoaded = true → (s.loadInto sl).firmwareLoaded = true) := by
  rcases loadInto_cases sl s with ⟨_, e⟩ | ⟨_, e, _⟩ | ⟨_, image, _, _, e⟩ <;> rw [e] <;> simp

/-- All that SETEN.0 can do when it gives a next state (R71). -/
theorem seten0_cases {s s' : State} (h : exec .seten0 s = .next s') :
    (s.enabled = false ∧ s' = s.respond .nothing) ∨
    (s.enabled = true ∧ s.replies.windowAnswer = false ∧
      s' = State.respond .nothing (State.callRomWindow { s with enabled := false })) ∨
    (s.enabled = true ∧ s.replies.windowAnswer = true ∧ fits s.slot s ∧
      s' = State.respond .nothing ((State.callRomWindow { s with enabled := false }).zeroFootprint s.slot)) := by
  have h : execSeten0 s = .next s' := h
  unfold execSeten0 at h
  split at h
  · rename_i he
    rcases withWindow_cases h with ⟨h1, h2⟩ | ⟨h1, h2, h3⟩
    · exact .inr (.inl ⟨he, h1, h2⟩)
    · exact .inr (.inr ⟨he, h1, footprintRefusal_none.1 h2, h3⟩)
  · rename_i he
    cases h
    exact .inl ⟨Bool.eq_false_iff.2 he, rfl⟩

/-- All that SETEN.1 can do when it gives a next state (R70). -/
theorem seten1_cases {s s' : State} (h : exec .seten1 s = .next s') :
    (s.enabled = true ∧ s' = s.respond .nothing) ∨
    (s.enabled = false ∧ s.replies.windowAnswer = false ∧
      s' = State.respond .nothing (State.callRomWindow (State.announce { s with enabled := true }))) ∨
    (s.enabled = false ∧ s.replies.windowAnswer = true ∧ fits s.slot s ∧
      s' = State.respond .nothing
        (State.loadInto s.slot (State.callRomWindow (State.announce { s with enabled := true })))) := by
  have h : execSeten1 s = .next s' := h
  unfold execSeten1 at h
  split at h
  · rename_i he
    cases h
    exact .inl ⟨he, rfl⟩
  · rename_i he
    rcases withWindow_cases h with ⟨h1, h2⟩ | ⟨h1, h2, h3⟩
    · exact .inr (.inl ⟨Bool.eq_false_iff.2 he, h1, h2⟩)
    · exact .inr (.inr ⟨Bool.eq_false_iff.2 he, h1, footprintRefusal_none.1 h2, h3⟩)

/-- All that LOAD can do when it gives a next state (R85). -/
theorem load_cases {sl : Slot} {s s' : State} (h : exec (.load sl) s = .next s') :
    fits sl s ∧ s' = (s.loadInto sl).respond .nothing := by
  have h : execLoad sl s = .next s' := h
  unfold execLoad at h
  cases e : footprintRefusal sl s with
  | none => rw [e] at h; cases h; exact ⟨footprintRefusal_none.1 e, rfl⟩
  | some r => rw [e] at h; cases h

/-- All that a command word can select (R58). -/
theorem decodeControl_cases {c : CommandWord} {i : Instr} (h : decodeControl c = .ok i) :
    (∃ arg, i = .qry arg) ∨ i = .seten0 ∨ i = .seten1 ∨ ∃ sl, sl ≠ 0#3 ∧ i = .load sl := by
  unfold decodeControl at h
  repeat' split at h
  all_goals cases h
  · exact .inl ⟨_, rfl⟩
  · exact .inr (.inl rfl)
  · exact .inr (.inr (.inl rfl))
  · exact .inr (.inr (.inr ⟨_, by assumption, rfl⟩))

/-! ## The step -/

/-- All that a step can do when it gives a next state: nothing waits; the host writes a byte; a transaction is
dispatched; a command is carried out. -/
theorem step_cases {s s' : State} (h : step s = .next s') :
    (s.pending = [] ∧ s' = s) ∨
    (∃ a v rest, s.pending = .hostWrite a v :: rest ∧ a < s.windowBytes ∧
      s' = { s with rom := s.rom.write a v, pending := rest }) ∨
    (∃ t rest, s.pending = .request (.bus t) :: rest ∧
      exec (decodeBus t) { s with pending := rest } = .next s') ∨
    (∃ c i rest, s.pending = .request (.control c) :: rest ∧ decodeControl c = .ok i ∧
      exec i { s with pending := rest } = .next s') := by
  unfold step at h
  split at h
  · rename_i hp
    cases h
    exact .inl ⟨hp, rfl⟩
  · rename_i x rest hp
    right
    match x with
    | .hostWrite a v =>
      simp only [runStimulus, runHostWrite] at h
      split at h
      · rename_i ha
        cases h
        exact .inl ⟨a, v, rest, hp, ha, rfl⟩
      · cases h
    | .request (.bus t) => exact .inr (.inl ⟨t, rest, hp, h⟩)
    | .request (.control c) =>
      simp only [runStimulus, runRequest, decode] at h
      cases e : decodeControl c with
      | ok i => rw [e] at h; exact .inr (.inr ⟨c, i, rest, hp, e, h⟩)
      | error e' => rw [e] at h; cases h

/-- A run one step longer, when the first step gives a next state. -/
theorem steps_succ {s s' : State} {k : Nat} (h : step s = .next s') : steps (k + 1) s = steps k s' := by
  rw [steps, h]

/-- What every step keeps, every run keeps. -/
theorem steps_keep {P : State → Prop} (hP : ∀ s s', step s = .next s' → P s → P s') (k : Nat) (s s' : State)
    (h : steps k s = .next s') (hs : P s) : P s' := by
  induction k generalizing s with
  | zero => cases h; exact hs
  | succ k ih =>
    rw [steps] at h
    cases e : step s with
    | next s1 => rw [e] at h; exact ih s1 h (hP _ _ e hs)
    | fault f => cases f
    | refused r => rw [e] at h; cases h

theorem run_next (M : Host.Core) {k : Nat} {s s' : M.State} (h : M.step s = .next s') :
    M.run (k + 1) s = M.run k s' := by
  simp only [Host.Core.run, h]

theorem run_refused (M : Host.Core) {k : Nat} {s : M.State} {r : M.Refusal} (h : M.step s = .refused r) :
    M.run (k + 1) s = .refused r := by
  simp only [Host.Core.run, h]

theorem steps_refused {k : Nat} {s : State} {r : Refusal} (h : step s = .refused r) :
    steps (k + 1) s = .refused r := by
  rw [steps, h]

/-- `steps` is the run of the host's interface. -/
theorem steps_eq_run (k : Nat) (s : State) : steps k s = Sys2Proof.core.run k s := by
  induction k generalizing s with
  | zero => rfl
  | succ k ih =>
    cases h : step s with
    | next s' => exact (steps_succ h).trans ((ih s').trans (run_next Sys2Proof.core h).symm)
    | fault f => cases f
    | refused r => exact (steps_refused h).trans (run_refused Sys2Proof.core h).symm

end Sys2Proof.Machine
end

