-- ==== Sys2Proof/Tests/Slice0.lean ====
section
/-! SUPPORT. The model's own tests: ill-formed terms, decode words written out from the spec's encodings, one step on
a small state against the vectors of spec/95_test_vectors.md, and a witness for every statement with hypotheses. -/

namespace Sys2Proof.Tests

open Sys2Proof.Machine

/-- The registers of 95_test_vectors.md section 2.3. -/
def file : RegFile := ⟨0x11#8, 0x22#8, 0x33#8, 0x44#8, 0x55#8⟩

/-- Replies of a present window and this firmware answer, twice. -/
def ready (answer : Option (List Byte)) : Replies :=
  { window := [true, true], firmware := [answer, answer], fallback := [0xA0#8, 0x99#8], draws := 0 }

/-- Replies without a window. -/
def noWindow : Replies := { window := [false, false], firmware := [], fallback := [], draws := 0 }

/-- An image of n bytes. -/
def image (n : Nat) : List Byte := List.replicate n 0xAB#8

/-- A card in a window of 4096 bytes. -/
def card (enabled loaded : Bool) (slot : Slot) (replies : Replies) (pending : List Stimulus) : State :=
  { State.reset with
    enabled := enabled, firmwareLoaded := loaded, slot := slot, regs := file, windowBytes := 4096,
    replies := replies, pending := pending }

/-- The state after one request. -/
def after (r : Request) (s : State) : Option State := nextState? (step { s with pending := [.request r] })

/-- What one request answers. -/
def answer (r : Request) (s : State) : Option Response := (after r s).map (·.response)

/-- The registers after one request. -/
def regsAfter (r : Request) (s : State) : Option RegFile := (after r s).map (·.regs)

/-- The cells `enabled`, `firmwareLoaded`, `slot` after one request. -/
def cellsAfter (r : Request) (s : State) : Option (Bool × Bool × Slot) :=
  (after r s).map fun s => (s.enabled, s.firmwareLoaded, s.slot)

/-! ## Ill-formed terms -/

theorem test_wellFormed_refuses_fwd_of_first_register : (Instr.fwd (.rd 0xC0F0#16)).wellFormed = false := by decide
theorem test_wellFormed_refuses_fwd_of_last_register : (Instr.fwd (.wr 0x00F4#16 1#8)).wellFormed = false := by decide
theorem test_wellFormed_accepts_neighbours :
    (Instr.fwd (.rd 0xC0EF#16)).wellFormed = true ∧ (Instr.fwd (.rd 0xC0F5#16)).wellFormed = true := by decide
theorem test_wellFormed_refuses_slot_zero : (Instr.load 0#3).wellFormed = false := by decide
theorem test_wellFormed_accepts_slots : (Instr.load 1#3).wellFormed = true ∧ (Instr.load 7#3).wellFormed = true := by
  decide

/-! ## Decode: the words of 30_encoding.md R52, R53, R58, R59, bit by bit -/

theorem test_decode_rdData : decodeTableWord 16 0b011110000 = some (.rdData ⟨0, 0, 0, 0⟩) := by decide
theorem test_decode_rdStatus : decodeTableWord 16 0b011110001 = some (.rdStatus ⟨0, 0, 0, 0⟩) := by decide
theorem test_decode_rdClkdiv : decodeTableWord 16 0b011110010 = some (.rdClkdiv ⟨0, 0, 0, 0⟩) := by decide
theorem test_decode_rdSsel : decodeTableWord 16 0b011110011 = some (.rdSsel ⟨0, 0, 0, 0⟩) := by decide
theorem test_decode_rdBank : decodeTableWord 16 0b011110100 = some (.rdBank ⟨0, 0, 0, 0⟩) := by decide
theorem test_decode_wrData : decodeTableWord 16 0b111110000 = some (.wrData ⟨0, 0, 0, 0⟩) := by decide
theorem test_decode_wrCtrl : decodeTableWord 16 0b111110001 = some (.wrCtrl ⟨0, 0, 0, 0⟩) := by decide
theorem test_decode_wrClkdiv : decodeTableWord 16 0b111110010 = some (.wrClkdiv ⟨0, 0, 0, 0⟩) := by decide
theorem test_decode_wrSsel : decodeTableWord 16 0b111110011 = some (.wrSsel ⟨0, 0, 0, 0⟩) := by decide
theorem test_decode_wrBank : decodeTableWord 16 0b111110100 = some (.wrBank ⟨0, 0, 0, 0⟩) := by decide
theorem test_decode_fwd_rows :
    decodeTableWord 16 0b000000000 = some (.fwd (.rd 0x00#16)) ∧
    decodeTableWord 16 0b110000000 = some (.fwd (.wr 0x80#16 0#8)) ∧
    decodeTableWord 16 0b011000000 = some (.fwd (.rd 0xC0#16)) ∧
    decodeTableWord 16 0b111100000 = some (.fwd (.wr 0xE0#16 0#8)) ∧
    decodeTableWord 16 0b011110101 = some (.fwd (.rd 0xF5#16)) ∧
    decodeTableWord 16 0b111110111 = some (.fwd (.wr 0xF7#16 0#8)) ∧
    decodeTableWord 16 0b011111000 = some (.fwd (.rd 0xF8#16)) := by decide
theorem test_decode_qry : decodeTableWord 8 0b00111 = some (.qry 0b111#3) := by decide
theorem test_decode_seten0 : decodeTableWord 8 0b01000 = some .seten0 := by decide
theorem test_decode_seten1 : decodeTableWord 8 0b01001 = some .seten1 := by decide
theorem test_decode_load :
    decodeTableWord 8 0b10001 = some (.load 1#3) ∧ decodeTableWord 8 0b10111 = some (.load 7#3) := by decide
theorem test_decode_rejects_reserved :
    decode (.control 0b01010#5) = .error (.reservedSeten 0b01010#5) ∧
    decode (.control 0b01100#5) = .error (.reservedSeten 0b01100#5) ∧
    decode (.control 0b10000#5) = .error (.loadSlotZero 0b10000#5) ∧
    decode (.control 0b11000#5) = .error (.reservedCode 0b11000#5) := by decide

/-! ## Reset and the presented word -/

/-- The first step after reset runs the presented word (V-S2, V-G1, V-A8, V-L1). -/
theorem test_reset_runs_presented_words :
    ((nextState? (step (State.reset.withFetchWord 8 0b00000))).map (·.response) = some (.bool false)) ∧
    ((nextState? (step (State.reset.withFetchWord 16 0b011110000))).map (·.response) = some (.byte 0x00#8)) ∧
    ((nextState? (step (State.reset.withFetchWord 8 0b01000))).map (·.response) = some .nothing) := by decide

theorem test_reset_runs_load_and_enable :
    ((nextState? (step (State.reset.withFetchWord 8 0b10111))).map (·.response) = some .nothing) ∧
    ((nextState? (step (State.reset.withFetchWord 8 0b01001))).map (·.response) = some .nothing) := by decide +kernel

/-! ## Register reads (V-R1 to V-R5, V-R7, V-G5) -/

theorem test_rdData : answer (.bus (.rd 0xC0F0#16)) (card true true 7#3 noWindow []) = some (.byte 0x11#8) := by decide
theorem test_rdData_absent : answer (.bus (.rd 0xC0F0#16)) (card false true 7#3 noWindow []) = some (.byte 0x00#8) := by
  decide
theorem test_rdStatus : answer (.bus (.rd 0xC0F1#16)) (card true true 7#3 noWindow []) = some (.byte 0x22#8) := by decide
theorem test_rdClkdiv : answer (.bus (.rd 0xC0F2#16)) (card true true 7#3 noWindow []) = some (.byte 0x33#8) := by decide
theorem test_rdSsel : answer (.bus (.rd 0x00F3#16)) (card true true 1#3 noWindow []) = some (.byte 0x44#8) := by decide
theorem test_rdBank : answer (.bus (.rd 0xFFF4#16)) (card true true 7#3 noWindow []) = some (.byte 0x55#8) := by decide

/-! ## Register writes (V-W1 to V-W5, V-W8, V-G2) -/

theorem test_wrData : regsAfter (.bus (.wr 0xC0F0#16 0xA5#8)) (card true true 7#3 noWindow []) =
    some ⟨0xA5#8, 0x22#8, 0x33#8, 0x44#8, 0x55#8⟩ := by decide
theorem test_wrData_answers_zero :
    answer (.bus (.wr 0xC0F0#16 0xA5#8)) (card true true 7#3 noWindow []) = some (.byte 0x00#8) := by decide
theorem test_wrCtrl : regsAfter (.bus (.wr 0x12F1#16 0x7F#8)) (card true true 7#3 noWindow []) =
    some ⟨0x11#8, 0x7F#8, 0x33#8, 0x44#8, 0x55#8⟩ := by decide
theorem test_wrClkdiv : regsAfter (.bus (.wr 0xC0F2#16 0x02#8)) (card true true 7#3 noWindow []) =
    some ⟨0x11#8, 0x22#8, 0x02#8, 0x44#8, 0x55#8⟩ := by decide
theorem test_wrClkdiv_absent : regsAfter (.bus (.wr 0xC0F2#16 0x33#8)) (card true false 7#3 noWindow []) = some file := by
  decide
theorem test_wrSsel : regsAfter (.bus (.wr 0xC0F3#16 0xFE#8)) (card true true 7#3 noWindow []) =
    some ⟨0x11#8, 0x22#8, 0x33#8, 0xFE#8, 0x55#8⟩ := by decide
theorem test_wrBank : regsAfter (.bus (.wr 0xC0F4#16 0xFF#8)) (card true true 7#3 noWindow []) =
    some ⟨0x11#8, 0x22#8, 0x33#8, 0x44#8, 0xFF#8⟩ := by decide

/-! ## Forwarded accesses (V-F3, V-G3) -/

theorem test_fwd : (after (.bus ⟨0x1234#16, 0xC0FF#16, true, 0x12#8, 7#32⟩) (card true true 7#3 (ready none) [])).map
    (fun s => (s.response, s.calls)) =
      some (.byte 0xA0#8, [.fallback ⟨0x1234#16, 0xC0FF#16, true, 0x12#8, 7#32⟩]) := by decide
theorem test_fwd_absent : (after (.bus (.rd 0xC000#16)) (card true false 7#3 (ready none) [])).map
    (fun s => (s.response, s.calls)) = some (.byte 0x00#8, []) := by decide

/-! ## Activation (V-S4, V-S6, V-A1, V-A3, V-A5, V-A6, V-A9, V-A11, V-A14) -/

theorem test_qry : answer (.control 0b00111#5) (card true true 7#3 noWindow []) = some (.bool true) := by decide
theorem test_qry_stale : answer (.control 0b00000#5) (card false true 7#3 noWindow []) = some (.bool false) := by decide
theorem test_seten1_no_window : cellsAfter (.control 0b01001#5) (card false false 7#3 noWindow []) =
    some (true, false, 7#3) := by decide
theorem test_seten1_loads : (after (.control 0b01001#5) (card false false 3#3 (ready (some (image 256))) [])).map
    (fun s => (s.firmwareLoaded, registerCount s, cardTypeCount s)) = some (true, 1, 1) := by decide +kernel
theorem test_seten0_keeps_loaded : cellsAfter (.control 0b01000#5) (card true true 7#3 (ready none) []) =
    some (false, true, 7#3) := by decide +kernel
theorem test_seten0_no_window : (after (.control 0b01000#5) (card true true 7#3 noWindow [])).map (·.rom) = some [] := by
  decide

/-! ## Load (V-L6, V-L11) and the window -/

theorem test_load_moves_slot : cellsAfter (.control 0b10001#5) (card true false 7#3 (ready (some (image 256))) []) =
    some (true, true, 1#3) := by decide +kernel
theorem test_load_long_image_fails : cellsAfter (.control 0b10011#5) (card true false 7#3 (ready (some (image 257))) []) =
    some (true, false, 7#3) := by decide +kernel
theorem test_copy_keeps_order : Memory.writeFrom [(255, 9#8), (257, 8#8), (258, 7#8)] (slotBase 1#3) [1#8, 2#8] =
    [(255, 9#8), (256, 1#8), (257, 2#8), (258, 7#8)] := by decide
theorem test_footprint_of_slot_seven :
    inFootprint 7#3 1791 = false ∧ inFootprint 7#3 1792 = true ∧ inFootprint 7#3 2047 = true ∧
    inFootprint 7#3 2048 = false := by decide

/-! ## Witnesses: for each statement with hypotheses, values that meet them, at the boundaries of each clause -/

theorem test_witness_DecodeOfEncodeIsIdentity :
    (Instr.fwd (.rd 0xC0EF#16)).wellFormed = true ∧ (Instr.fwd (.wr 0xC0F5#16 3#8)).wellFormed = true ∧
    (Instr.load 1#3).wellFormed = true ∧ (Instr.load 7#3).wellFormed = true ∧
    (Instr.wrBank ⟨1, 2, 3, 4⟩).wellFormed = true := by decide

theorem test_witness_EncodeOfDecodeIsIdentity :
    decode (.control 0b10001#5) = .ok (.load 1#3) ∧
    decode (.bus (.rd 0xC0F4#16)) = .ok (.rdBank ⟨0, 0xC0#8, 0, 0⟩) := by decide

theorem test_witness_BusKeySelectsOneRow :
    (∀ r : Reg, (Transaction.rd 0xC0EF#16).offset ≠ r.offset) ∧ (∀ r : Reg, (Transaction.wr 0xC0F5#16 1#8).offset ≠ r.offset) := by
  constructor <;> (intro r; cases r <;> decide)

theorem test_witness_UpperAddressBitsTakeNoPartInDecode :
    (Transaction.rd 0x00F3#16).addr.extractLsb' 0 8 = (Transaction.rd 0xC0F3#16).addr.extractLsb' 0 8 ∧
    (Transaction.rd 0x00F5#16).addr.extractLsb' 0 8 = (Transaction.rd 0xFFF5#16).addr.extractLsb' 0 8 ∧
    (card true true 7#3 (ready none) []).present = true ∧
    decode (.bus (.rd 0xC0F3#16)) = .ok (.rdSsel ⟨0, 0xC0#8, 0, 0⟩) ∧
    ∃ s', exec (.fwd (.rd 0x00F5#16)) (card true true 7#3 (ready none) []) = .next s' :=
  ⟨by decide, by decide, by decide, by decide, _, rfl⟩

theorem test_witness_DispatchIsTotal :
    (card true false 7#3 (ready none) []).present = false ∧ Offset.hit (Transaction.rd 0xC0EF#16).offset = false ∧
    Offset.hit (Transaction.rd 0xC0F5#16).offset = false ∧ Offset.hit (Transaction.rd 0xC0F4#16).offset = true := by
  decide

theorem test_witness_StepRunsDecodedInstruction :
    (card true true 7#3 noWindow [.request (.control 0b01001#5)]).pending = .request (.control 0b01001#5) :: [] ∧
    decode (.control 0b01001#5) = .ok .seten1 := by decide

theorem test_witness_ReservedCommandIsRefused :
    reservedWord 0b01010#5 = true ∧ reservedWord 0b01011#5 = true ∧ reservedWord 0b01100#5 = true ∧
    reservedWord 0b01111#5 = true ∧ reservedWord 0b10000#5 = true ∧ reservedWord 0b11000#5 = true ∧
    reservedWord 0b11111#5 = true ∧ reservedWord 0b01001#5 = false ∧ reservedWord 0b10001#5 = false ∧
    (card true true 7#3 noWindow [.request (.control 0b10000#5)]).pending =
      .request (.control 0b10000#5) :: [] := by decide

theorem test_witness_HostWriteChangesOneByteAndIdleNothing :
    (card true true 7#3 noWindow []).pending = [] ∧
    (card true true 7#3 noWindow [.hostWrite 4095 1#8]).pending = .hostWrite 4095 1#8 :: [] ∧
    4095 < (card true true 7#3 noWindow [.hostWrite 4095 1#8]).windowBytes ∧
    (card true true 7#3 noWindow [.hostWrite 4096 1#8]).pending = .hostWrite 4096 1#8 :: [] ∧
    (card true true 7#3 noWindow [.hostWrite 4096 1#8]).windowBytes ≤ 4096 := by decide

/-- A state that meets the invariant, with a stimulus inside and one outside the contract. -/
theorem test_witness_StepCompletesExactlyWithinContract :
    Inv (card true true 1#3 noWindow [.hostWrite 4095 1#8]) ∧
    withinContract (.hostWrite 4095 1#8) (card true true 1#3 noWindow [.hostWrite 4095 1#8]) ∧
    ¬withinContract (.hostWrite 4096 1#8) (card true true 1#3 noWindow [.hostWrite 4096 1#8]) :=
  ⟨by decide, by unfold withinContract; decide, by unfold withinContract; decide⟩

theorem test_witness_ServedReadsAnswerTheirRegister :
    (Transaction.rd 0xC0F0#16).isWrite = false ∧ (Transaction.rd 0xC0F0#16).addr.extractLsb' 0 8 = 0xF0#8 ∧
    (Transaction.rd 0xC0F1#16).addr.extractLsb' 0 8 = 0xF1#8 ∧ (Transaction.rd 0xC0F2#16).addr.extractLsb' 0 8 = 0xF2#8 ∧
    (Transaction.rd 0xC0F3#16).addr.extractLsb' 0 8 = 0xF3#8 ∧ (Transaction.rd 0xC0F4#16).addr.extractLsb' 0 8 = 0xF4#8 := by
  decide

theorem test_witness_ServedWritesStoreTheByte :
    (Transaction.wr 0xC0F0#16 1#8).isWrite = true ∧ (Transaction.wr 0xC0F0#16 1#8).addr.extractLsb' 0 8 = 0xF0#8 ∧
    (Transaction.wr 0xC0F1#16 1#8).addr.extractLsb' 0 8 = 0xF1#8 ∧ (Transaction.wr 0xC0F2#16 1#8).addr.extractLsb' 0 8 = 0xF2#8 ∧
    (Transaction.wr 0xC0F3#16 1#8).addr.extractLsb' 0 8 = 0xF3#8 ∧ (Transaction.wr 0xC0F4#16 1#8).addr.extractLsb' 0 8 = 0xF4#8 := by
  decide

/-- A present card and the three kinds of absent one (also for BusOperationsKeepControlCells and
AbsentCardIsInvisible). -/
theorem test_witness_ForwardedAccessAnswersFallback :
    (card true true 7#3 (ready none) []).present = true ∧ (card true false 7#3 (ready none) []).present = false ∧
    (card false true 7#3 (ready none) []).present = false ∧ (card false false 7#3 (ready none) []).present = false := by
  decide

theorem test_witness_BusOperationsKeepControlCells :
    decode (.bus (.wr 0xC0F4#16 1#8)) = .ok (.wrBank ⟨0, 0xC0#8, 1#8, 0⟩) := by decide

theorem test_witness_AbsentCardIsInvisible :
    (card false true 7#3 (ready none) []).present = false ∧
    decode (.bus (.wr 0xC0F5#16 1#8)) = .ok (.fwd (.wr 0xC0F5#16 1#8)) ∧
    decode (.bus (.rd 0xC0F0#16)) = .ok (.rdData ⟨0, 0xC0#8, 0, 0⟩) := by decide

theorem test_witness_PassThroughInputsHaveNoEffect :
    (⟨1, 0xC0F0#16, false, 2, 3⟩ : Transaction).offset = (⟨4, 0x00F0#16, false, 5, 6⟩ : Transaction).offset ∧
    fallbackRequest ⟨1, 0xC0F0#16, false, 2, 3⟩ (card true true 7#3 (ready none) []) = false ∧
    (⟨1, 0xC0F4#16, true, 2, 3⟩ : Transaction).offset = (⟨4, 0x00F4#16, true, 2, 6⟩ : Transaction).offset ∧
    fallbackRequest ⟨1, 0xC0F4#16, true, 2, 3⟩ (card true true 7#3 (ready none) []) = false ∧
    fallbackRequest (.rd 0xC0EF#16) (card true true 7#3 (ready none) []) = true := by decide

theorem test_witness_RegisterRoundTrip :
    (card true true 7#3 noWindow []).present = true ∧ (Transaction.wr 0xC0F3#16 0xFE#8).isWrite = true ∧
    (Transaction.rd 0x00F3#16).isWrite = false ∧ (Transaction.wr 0xC0F3#16 0xFE#8).offset = Reg.ssel.offset ∧
    (Transaction.rd 0x00F3#16).offset = Reg.ssel.offset ∧
    (card true true 7#3 noWindow [.request (.bus (.wr 0xC0F3#16 0xFE#8)), .request (.bus (.rd 0x00F3#16))]).pending =
      .request (.bus (.wr 0xC0F3#16 0xFE#8)) :: .request (.bus (.rd 0x00F3#16)) :: [] := by decide

theorem test_witness_ReadReturnsLatestWrite :
    (card true true 7#3 noWindow
      (busQueue [.wr 0xC0F3#16 1#8, .rd 0xC000#16] ++ .request (.bus (.rd 0x00F3#16)) :: [])).present = true ∧
    (Transaction.rd 0x00F3#16).isWrite = false ∧ (Transaction.rd 0x00F3#16).offset = Reg.ssel.offset := by decide

theorem test_witness_RegisterChangesOnlyByServedWrite :
    ∃ s', step (card true true 7#3 noWindow [.request (.bus (.wr 0xC0F3#16 0xFE#8))]) = .next s' ∧
      s'.regs.get .ssel ≠ (card true true 7#3 noWindow [.request (.bus (.wr 0xC0F3#16 0xFE#8))]).regs.get .ssel :=
  ⟨_, rfl, by decide⟩

theorem test_witness_RepeatedSetEnabledIsNoOp :
    (card true false 7#3 noWindow []).enabled = true ∧ (card false true 7#3 noWindow []).enabled = false := by decide

/-- The three clauses: no window; a window and 255 bytes; a window and 256 bytes; at the first and the last slot. -/
theorem test_witness_EnableTransitionEffects :
    (card false false 1#3 noWindow []).enabled = false ∧ fits 1#3 (card false false 1#3 noWindow []) ∧
    noWindow.windowAnswer = false ∧ fits 7#3 (card false true 7#3 (ready (some (image 255))) []) ∧
    (ready (some (image 255))).windowAnswer = true ∧
    imageOk (ready (some (image 255))).afterWindow.firmwareAnswer = false ∧
    (ready (some (image 256))).afterWindow.firmwareAnswer = some (image 256) ∧ (image 256).length = 256 := by
  decide +kernel

theorem test_witness_DisableTransitionZeroesExactlyFootprint :
    (card true true 7#3 (ready none) []).enabled = true ∧ fits 7#3 (card true true 7#3 (ready none) []) ∧
    (ready none).windowAnswer = true ∧ fits 1#3 (card true false 1#3 noWindow []) ∧ noWindow.windowAnswer = false := by
  decide

/-- Each control operation, and a bus operation, gives a next state (also for WindowWrittenOnlyInsideFootprint and
ControlOperationsKeepRegisters). -/
theorem test_witness_ActivationFollowsTransitionTable :
    (∃ s', exec .seten1 (card false false 7#3 (ready (some (image 256))) []) = .next s') ∧
    (∃ s', exec .seten0 (card true true 7#3 (ready none) []) = .next s') ∧
    (∃ s', exec (.load 3#3) (card true false 7#3 (ready (some (image 256))) []) = .next s') ∧
    (∃ s', exec (.qry 0#3) (card true true 7#3 noWindow []) = .next s') ∧
    (∃ s', exec (decodeBus (.rd 0xC0F0#16)) (card true true 7#3 noWindow []) = .next s') :=
  ⟨⟨_, rfl⟩, ⟨_, rfl⟩, ⟨_, rfl⟩, ⟨_, rfl⟩, ⟨_, rfl⟩⟩

theorem test_witness_WindowWrittenOnlyInsideFootprint :
    (∃ s', exec .seten0 (card true true 7#3 (ready none) []) = .next s') ∧
    inFootprint 7#3 1791 = false ∧ inFootprint 7#3 1792 = true ∧
    (∃ s', exec .seten1 (card false false 7#3 (ready (some (image 256))) []) = .next s') ∧
    (∃ s', exec (.load 1#3) (card true false 7#3 (ready (some (image 256))) []) = .next s') ∧
    inFootprint 1#3 255 = false :=
  ⟨⟨_, rfl⟩, by decide, by decide, ⟨_, rfl⟩, ⟨_, rfl⟩, by decide⟩

theorem test_witness_ControlOperationsKeepRegisters :
    decode (.control 0b01000#5) = .ok .seten0 ∧
    ∃ s', exec .seten0 (card true true 7#3 (ready none) []) = .next s' :=
  ⟨by decide, _, rfl⟩

theorem test_witness_ReenableRestoresPresence :
    (card true true 7#3 (ready none)
      [.request (encode .seten0), .request (encode .seten1), .request (.bus (.wr 0xC0F0#16 1#8)),
       .request (.bus (.rd 0xC0F0#16))]).enabled = true ∧
    fits 7#3 (card true true 7#3 (ready none) []) ∧ (Transaction.wr 0xC0F0#16 1#8).isWrite = true ∧
    (Transaction.rd 0xC0F0#16).isWrite = false ∧ (Transaction.wr 0xC0F0#16 1#8).offset = Reg.data.offset ∧
    (Transaction.rd 0xC0F0#16).offset = Reg.data.offset := by decide

theorem test_witness_PresentDoesNotImplyImage :
    (card true true 7#3 { ready none with window := [true, false] }
      [.request (encode .seten0), .request (encode .seten1)]).enabled = true ∧
    fits 7#3 (card true true 7#3 { ready none with window := [true, false] } []) ∧
    Replies.windowAnswer { ready none with window := [true, false] } = true ∧
    (Replies.afterWindow { ready none with window := [true, false] }).windowAnswer = false := by decide

/-- A run of one step that is an enable transition. -/
theorem test_witness_AnnouncementsCountEnableTransitions :
    (∃ s', steps 1 (card false false 7#3 noWindow [.request (encode .seten1)]) = .next s') ∧
    enableTransitions 1 (card false false 7#3 noWindow [.request (encode .seten1)]) = 1 :=
  ⟨⟨_, rfl⟩, by decide⟩

theorem test_witness_FirmwareLoadedIsSticky :
    (card true true 7#3 noWindow [.request (encode .seten0)]).firmwareLoaded = true ∧
    ∃ s', steps 1 (card true true 7#3 noWindow [.request (encode .seten0)]) = .next s' :=
  ⟨rfl, _, rfl⟩

/-- The three clauses: not enabled; enabled and 257 bytes; enabled and 256 bytes. -/
theorem test_witness_LoadEffects :
    fits 1#3 (card false true 7#3 (ready none) []) ∧ (card false true 7#3 (ready none) []).enabled = false ∧
    fits 7#3 (card true false 7#3 (ready (some (image 257))) []) ∧
    imageOk (ready (some (image 257))).firmwareAnswer = false ∧
    (ready (some (image 256))).firmwareAnswer = some (image 256) ∧ (image 256).length = 256 := by decide +kernel

theorem test_witness_LoadCopiesImageInOrder :
    fits 7#3 (card true false 7#3 (ready (some (image 256))) []) ∧
    (card true false 7#3 (ready (some (image 256))) []).enabled = true ∧
    (ready (some (image 256))).firmwareAnswer = some (image 256) ∧ (image 256).length = 256 ∧
    inFootprint 7#3 2048 = false := by decide +kernel

/-- A window of 2047 bytes is one byte too short for slot 7 and long enough for slot 6. -/
theorem test_witness_LoadOutsideContractIsRefused :
    State.windowBytes { card true true 7#3 noWindow [] with windowBytes := 2047 } ≤ slotBase 7#3 + 255 ∧
    fits 6#3 { card true true 7#3 noWindow [] with windowBytes := 2047 } := by decide

theorem test_witness_MovingSlotLeavesOldFootprint :
    (card true true 7#3 (ready (some (image 256))) [.request (encode (.load 3#3)), .request (encode .seten0)]).enabled = true ∧
    (3#3 : Slot) ≠ 7#3 ∧ fits 3#3 (card true true 7#3 (ready (some (image 256))) []) ∧
    imageOk (ready (some (image 256))).firmwareAnswer = true ∧
    (ready (some (image 256))).afterFirmware.windowAnswer = true := by decide +kernel

theorem test_witness_FootprintsAreDisjoint :
    (1#3 : Slot) ≠ 0#3 ∧ inFootprint 1#3 256 = true ∧ inFootprint 1#3 511 = true ∧ inFootprint 7#3 2047 = true := by decide

theorem test_witness_IndicesOfNoSlotAreNeverWritten :
    (∀ i v, .hostWrite i v ∉ (card true true 7#3 (ready none) [.request (encode .seten0)]).pending) ∧
    (255 < 256 ∨ 2048 ≤ 255) ∧ (2048 < 256 ∨ 2048 ≤ 2048) ∧
    ∃ s', steps 1 (card true true 7#3 (ready none) [.request (encode .seten0)]) = .next s' :=
  ⟨fun i v h => (by cases h with | tail _ h => cases h), by decide, by decide, _, rfl⟩

theorem test_witness_StepKeepsInvariant :
    Inv (card true true 7#3 (ready none) [.request (encode .seten0)]) ∧
    ∃ s', step (card true true 7#3 (ready none) [.request (encode .seten0)]) = .next s' :=
  ⟨by decide, _, rfl⟩

end Sys2Proof.Tests
end

/-! SUPPORT. The state after reset (10_state.md R26), and the control cells across a bus operation (R21). -/

namespace Sys2Proof.Machine

/-! ## The derived signals by the two cells they are made of -/

/-- A disabled card is absent, loaded or not (R20). -/
theorem present_eq_false_of_disabled {s : State} (h : s.enabled = false) : s.present = false := by
  rw [State.present, h, Bool.false_and]

/-- Disabled is the one activation state with both cells false (R73). -/
theorem activation_eq_disabled_iff {s : State} :
    s.activation = .disabled ↔ s.enabled = false ∧ s.firmwareLoaded = false := by
  unfold State.activation
  cases s.enabled <;> cases s.firmwareLoaded <;> simp

/-! ## Reset -/

@[simp] theorem reset_enabled : State.reset.enabled = false := rfl
@[simp] theorem reset_firmwareLoaded : State.reset.firmwareLoaded = false := rfl
@[simp] theorem reset_slot : State.reset.slot = 7#3 := rfl
@[simp] theorem reset_events : State.reset.events = [] := rfl

@[simp] theorem reset_regs_get (r : Reg) : State.reset.regs.get r = 0x00#8 := by
  cases r <;> rfl

/-- Settles O1: the cells are the reset state's own fields, and `present` and the activation state follow from
`enabled` and `firmwareLoaded` being false. -/
theorem resetCellsAsGiven : Obligations.ResetCellsAsGiven :=
  ⟨reset_enabled, reset_firmwareLoaded, reset_slot, reset_regs_get, present_eq_false_of_disabled reset_enabled,
    activation_eq_disabled_iff.2 ⟨reset_enabled, reset_firmwareLoaded⟩, reset_events⟩

/-! ## The control cells across a bus operation -/

/-- All that a bus transaction can do: it always completes, behind the gate, as a served write, a served read or a
forwarded access (R101 to R103). -/
theorem exec_decodeBus_cases (t : Transaction) (s : State) :
    (∃ r, t.offset = r.offset ∧ t.isWrite = true ∧
      exec (decodeBus t) s = .next (gate (serveWrite r t.data) s)) ∨
    (∃ r, t.offset = r.offset ∧ t.isWrite = false ∧ exec (decodeBus t) s = .next (gate (serveRead r) s)) ∨
    (Offset.hit t.offset = false ∧ exec (decodeBus t) s = .next (gate (forward t) s)) := by
  rcases decodeBus_cases t with ⟨r, ho, hw, hd⟩ | ⟨r, ho, hw, hd⟩ | ⟨hh, hd⟩
  · exact .inl ⟨r, ho, hw, by rw [hd, exec_writeInstr, context_data]⟩
  · exact .inr (.inl ⟨r, ho, hw, by rw [hd, exec_readInstr]⟩)
  · exact .inr (.inr ⟨hh, by rw [hd, exec_fwd]⟩)

/-- The three cells of R21 are the same in `s'` as in `s`. -/
def sameControlCells (s s' : State) : Prop :=
  s'.enabled = s.enabled ∧ s'.firmwareLoaded = s.firmwareLoaded ∧ s'.slot = s.slot

theorem sameControlCells_respond (v : Response) (s : State) : sameControlCells s (s.respond v) :=
  ⟨s.respond_enabled v, s.respond_firmwareLoaded v, s.respond_slot v⟩

theorem sameControlCells_serveRead (r : Reg) (s : State) : sameControlCells s (serveRead r s) :=
  sameControlCells_respond _ s

theorem sameControlCells_serveWrite (r : Reg) (v : Byte) (s : State) : sameControlCells s (serveWrite r v s) := by
  rw [serveWrite_eq]
  exact ⟨rfl, rfl, rfl⟩

theorem sameControlCells_forward (t : Transaction) (s : State) : sameControlCells s (forward t s) := by
  rw [forward_eq]
  exact ⟨rfl, rfl, rfl⟩

/-- The gate writes no control cell that the operation behind it does not write. -/
theorem sameControlCells_gate {serve : State → State} {s : State} (h : sameControlCells s (serve s)) :
    sameControlCells s (gate serve s) := by
  cases hp : s.present with
  | true => rw [gate_present hp]; exact h
  | false => rw [gate_absent hp]; exact sameControlCells_respond _ s

/-- Settles O17, by the three things a bus transaction can do behind the gate. -/
theorem busOperationsKeepControlCells : Obligations.BusOperationsKeepControlCells := by
  intro t i s hd
  obtain rfl : decodeBus t = i := Except.ok.inj hd
  rcases exec_decodeBus_cases t s with ⟨r, -, -, he⟩ | ⟨r, -, -, he⟩ | ⟨-, he⟩
  · exact ⟨_, he, sameControlCells_gate (sameControlCells_serveWrite r t.data s)⟩
  · exact ⟨_, he, sameControlCells_gate (sameControlCells_serveRead r s)⟩
  · exact ⟨_, he, sameControlCells_gate (sameControlCells_forward t s)⟩

end Sys2Proof.Machine

/-! SUPPORT. The upper address byte and the slot take no part in a bus access (20_memory.md R31). -/

namespace Sys2Proof.Machine

/-! ## The bus decode by the direction and the offset -/

theorem decodeBus_write {t : Transaction} {r : Reg} (ho : t.offset = r.offset) (hw : t.isWrite = true) :
    decodeBus t = writeInstr r t.context := by
  rw [decodeBus_some (ofOffset_eq_some.2 ho), if_pos hw]

theorem decodeBus_read {t : Transaction} {r : Reg} (ho : t.offset = r.offset) (hw : t.isWrite = false) :
    decodeBus t = readInstr r t.context := by
  rw [decodeBus_some (ofOffset_eq_some.2 ho), hw, if_neg Bool.false_ne_true]

theorem decodeBus_unmapped {t : Transaction} (hh : Offset.hit t.offset = false) : decodeBus t = .fwd t :=
  decodeBus_none (ofOffset_eq_none.2 hh)

/-- The decode looks at nothing but the direction and the offset: what one access selects, every access with the same
two selects, with its own context (R31, R51). -/
theorem decodeBus_eq_of_sameKey {t t' : Transaction} (ho : t.offset = t'.offset) (hw : t.isWrite = t'.isWrite) :
    (∃ r, decodeBus t = readInstr r t.context ∧ decodeBus t' = readInstr r t'.context) ∨
    (∃ r, decodeBus t = writeInstr r t.context ∧ decodeBus t' = writeInstr r t'.context) ∨
    (decodeBus t = .fwd t ∧ decodeBus t' = .fwd t') := by
  rcases decodeBus_cases t with ⟨r, hr, hwr, hd⟩ | ⟨r, hr, hrd, hd⟩ | ⟨hh, hd⟩
  · exact .inr (.inl ⟨r, hd, decodeBus_write (ho ▸ hr) (hw ▸ hwr)⟩)
  · exact .inl ⟨r, hd, decodeBus_read (ho ▸ hr) (hw ▸ hrd)⟩
  · exact .inr (.inr ⟨hd, decodeBus_unmapped (ho ▸ hh)⟩)

/-! ## The call of a forwarded access -/

/-- On a present card a forwarded access makes one call, and hands on the transaction as received (R31, R103). -/
theorem exec_fwd_calls {t : Transaction} {s s' : State} (hp : s.present = true) (h : exec (.fwd t) s = .next s') :
    s'.calls = s.calls ++ [.fallback t] := by
  rw [exec_fwd, gate_present hp, forward_eq] at h
  cases h
  rfl

/-! ## Changes of the state that a bus operation does not see -/

/-- A change that `present`, the response and the operation behind the gate do not see commutes with the gate. -/
theorem gate_comm {f serve : State → State} {s : State} (hp : (f s).present = s.present)
    (hr : ∀ v, (f s).respond v = f (s.respond v)) (hs : serve (f s) = f (serve s)) :
    gate serve (f s) = f (gate serve s) := by
  cases h : s.present with
  | true => rw [gate_present (hp.trans h), gate_present h, hs]
  | false => rw [gate_absent (hp.trans h), gate_absent h, hr]

/-- A change that commutes with each of the three things a transaction can do behind the gate, and with the gate's
own answer, commutes with the transaction. -/
theorem exec_decodeBus_comm (t : Transaction) {f : State → State} {s : State} (hp : (f s).present = s.present)
    (hr : ∀ v, (f s).respond v = f (s.respond v)) (hread : ∀ r, serveRead r (f s) = f (serveRead r s))
    (hwrite : ∀ r v, serveWrite r v (f s) = f (serveWrite r v s)) (hfwd : forward t (f s) = f (forward t s)) :
    exec (decodeBus t) (f s) = mapNext f (exec (decodeBus t) s) := by
  rcases decodeBus_cases t with ⟨r, -, -, hd⟩ | ⟨r, -, -, hd⟩ | ⟨-, hd⟩
  · rw [hd, exec_writeInstr, exec_writeInstr, gate_comm hp hr (hwrite r _)]
    rfl
  · rw [hd, exec_readInstr, exec_readInstr, gate_comm hp hr (hread r)]
    rfl
  · rw [hd, exec_fwd, exec_fwd, gate_comm hp hr hfwd]
    rfl

/-- Another `slot` changes nothing in what a transaction does, and the transaction leaves it (R31). -/
theorem exec_decodeBus_slot (t : Transaction) (s : State) (sl : Slot) :
    exec (decodeBus t) { s with slot := sl } =
      mapNext (fun s' => { s' with slot := sl }) (exec (decodeBus t) s) :=
  exec_decodeBus_comm t (f := fun s' => { s' with slot := sl }) rfl (fun _ => rfl) (fun _ => rfl) (fun _ _ => rfl) rfl

/-- Settles O8: the decode is a function of the direction and the offset, a forwarded access hands on its whole
transaction, and a change of `slot` commutes with every transaction. -/
theorem upperAddressBitsTakeNoPartInDecode : Obligations.UpperAddressBitsTakeNoPartInDecode := by
  refine ⟨fun t t' ho hw => ?_, fun t i s sl hd => ?_⟩
  · rcases decodeBus_eq_of_sameKey ho hw with ⟨r, hd, hd'⟩ | ⟨r, hd, hd'⟩ | ⟨hd, hd'⟩
    · exact .inl ⟨r, .inl ⟨congrArg _ hd, congrArg _ hd'⟩⟩
    · exact .inl ⟨r, .inr ⟨congrArg _ hd, congrArg _ hd'⟩⟩
    · exact .inr ⟨congrArg _ hd, congrArg _ hd', fun _ _ => exec_fwd_calls⟩
  · obtain rfl : decodeBus t = i := Except.ok.inj hd
    exact exec_decodeBus_slot t s sl

end Sys2Proof.Machine

/-! SUPPORT. The dispatcher is total (42_dispatch.md R105), and the pass-through inputs have no effect off the forwarded
path (R107). -/

namespace Sys2Proof.Machine

/-! ## The managed range and the forwarded path -/

/-- The managed range holds the registers' offsets and no other (R52, R53). -/
theorem hit_eq_true_iff {o : Offset} : Offset.hit o = true ↔ ∃ r : Reg, o = r.offset := by
  rw [← Bool.not_eq_false, ← ofOffset_eq_none, ← ne_eq, Option.ne_none_iff_exists']
  exact exists_congr fun _ => ofOffset_eq_some

theorem hitAny_eq_true_iff {t : Transaction} : hitAny t = true ↔ ∃ r : Reg, t.offset = r.offset := by
  simp only [hitAny, hitReg, Bool.or_eq_true, decide_eq_true_eq]
  constructor
  · rintro ((((h | h) | h) | h) | h) <;> exact ⟨_, h⟩
  · rintro ⟨r, h⟩
    cases r <;> simp only [h, true_or, or_true]

/-- The multiplexer's `hit` is the decoder's (R53, R104). -/
theorem hitAny_eq_hit (t : Transaction) : hitAny t = Offset.hit t.offset :=
  Bool.eq_iff_iff.2 (hitAny_eq_true_iff.trans hit_eq_true_iff.symm)

/-- An access is forwarded exactly when the card is present and the offset unmapped (R104). -/
theorem fallbackRequest_eq_true_iff {t : Transaction} {s : State} :
    fallbackRequest t s = true ↔ s.present = true ∧ Offset.hit t.offset = false := by
  rw [fallbackRequest, hitAny_eq_hit, Bool.and_eq_true, Bool.not_eq_true']

/-- An unmapped access that is not forwarded met an absent card (R101). -/
theorem present_eq_false_of_not_forwarded {t : Transaction} {s : State} (hf : fallbackRequest t s = false)
    (hh : Offset.hit t.offset = false) : s.present = false := by
  rw [Bool.eq_false_iff] at hf ⊢
  exact fun hp => hf (fallbackRequest_eq_true_iff.2 ⟨hp, hh⟩)

/-! ## What a transaction does, by its direction and offset -/

theorem exec_decodeBus_write {t : Transaction} {r : Reg} (ho : t.offset = r.offset) (hw : t.isWrite = true)
    (s : State) : exec (decodeBus t) s = .next (gate (serveWrite r t.data) s) := by
  rw [decodeBus_write ho hw, exec_writeInstr, context_data]

theorem exec_decodeBus_read {t : Transaction} {r : Reg} (ho : t.offset = r.offset) (hw : t.isWrite = false)
    (s : State) : exec (decodeBus t) s = .next (gate (serveRead r) s) := by
  rw [decodeBus_read ho hw, exec_readInstr]

theorem exec_decodeBus_unmapped {t : Transaction} (hh : Offset.hit t.offset = false) (s : State) :
    exec (decodeBus t) s = .next (gate (forward t) s) := by
  rw [decodeBus_unmapped hh, exec_fwd]

/-- Off the forwarded path the outcome depends on the direction, the offset and, on a write, the data alone: a served
access does not look at the rest, and an absent card answers an unmapped one without looking at it (R107). -/
theorem exec_decodeBus_eq_of_not_forwarded {t t' : Transaction} {s : State} (ho : t.offset = t'.offset)
    (hw : t.isWrite = t'.isWrite) (hdata : t.isWrite = true → t.data = t'.data)
    (hf : fallbackRequest t s = false) : exec (decodeBus t) s = exec (decodeBus t') s := by
  rcases exec_decodeBus_cases t s with ⟨r, hr, hwr, he⟩ | ⟨r, hr, hrd, he⟩ | ⟨hh, he⟩
  · rw [he, exec_decodeBus_write (ho ▸ hr) (hw ▸ hwr), hdata hwr]
  · rw [he, exec_decodeBus_read (ho ▸ hr) (hw ▸ hrd)]
  · have hp := present_eq_false_of_not_forwarded hf hh
    rw [he, exec_decodeBus_unmapped (ho ▸ hh), gate_absent hp, gate_absent hp]

/-- Settles O19: off the forwarded path by the three things a transaction can do, on it by what a forwarded access
calls. -/
theorem passThroughInputsHaveNoEffect : Obligations.PassThroughInputsHaveNoEffect := by
  refine fun t t' s => ⟨exec_decodeBus_eq_of_not_forwarded, fun hf => ?_⟩
  obtain ⟨hp, hh⟩ := fallbackRequest_eq_true_iff.1 hf
  exact ⟨_, exec_decodeBus_unmapped hh s, exec_fwd_calls hp (exec_fwd t s)⟩

/-! ## What a transaction answers -/

@[simp] theorem serveRead_response (r : Reg) (s : State) : (serveRead r s).response = .byte (s.regs.get r) := rfl

@[simp] theorem serveWrite_response (r : Reg) (v : Byte) (s : State) :
    (serveWrite r v s).response = .byte 0x00#8 := rfl

@[simp] theorem forward_response (t : Transaction) (s : State) :
    (forward t s).response = .byte (s.replies.fallbackAnswer t) := rfl

/-- Behind the gate an absent card's byte is 0x00, a present card's the operation's own (R101). -/
theorem gate_response {serve : State → State} {s : State} {b : Byte} (h : (serve s).response = .byte b) :
    (gate serve s).response = .byte (if s.present then b else 0x00#8) := by
  cases hp : s.present with
  | true => rw [gate_present hp, h, if_pos rfl]
  | false => rw [gate_absent hp, State.respond_response, if_neg Bool.false_ne_true]

/-- Settles O13: each of the three things a transaction can do answers a byte, and only a served read on a present
card answers one that is neither 0x00 nor the fallback handler's. -/
theorem dispatchIsTotal : Obligations.DispatchIsTotal := by
  intro t s
  rcases exec_decodeBus_cases t s with ⟨r, -, -, he⟩ | ⟨r, hr, -, he⟩ | ⟨-, he⟩
  · exact ⟨_, _, _, rfl, he, gate_response (serveWrite_response r t.data s), fun _ => .inl (ite_self _)⟩
  · refine ⟨_, _, _, rfl, he, gate_response (serveRead_response r s), fun h => .inl ?_⟩
    have hh : Offset.hit t.offset = true := hit_eq_true_iff.2 ⟨r, hr⟩
    have hp : s.present = false := h.resolve_right (ne_false_of_eq_true hh)
    rw [hp, if_neg Bool.false_ne_true]
  · refine ⟨_, _, _, rfl, he, gate_response (forward_response t s), fun _ => ?_⟩
    cases s.present with
    | true => exact .inr (if_pos rfl)
    | false => exact .inl (if_neg Bool.false_ne_true)

end Sys2Proof.Machine

/-! SUPPORT. The served reads (43_register_reads.md R115 to R119). -/

namespace Sys2Proof.Machine

/-- A read whose offset is a register's decodes to the served read of that register (R52). -/
theorem decode_bus_read {t : Transaction} {r : Reg} (hw : t.isWrite = false) (ho : t.offset = r.offset) :
    decode (.bus t) = .ok (readInstr r t.context) :=
  congrArg Except.ok (decodeBus_read ho hw)

/-- The whole outcome of a served read: the response alone is new (R101, R102). -/
theorem exec_readInstr_eq (r : Reg) (c : BusContext) (s : State) :
    exec (readInstr r c) s =
      .next { s with response := .byte (if s.present then s.regs.get r else 0x00#8) } := by
  rw [exec_readInstr]
  cases hp : s.present with
  | true => rw [gate_present hp, serveRead_eq, if_pos rfl]
  | false => rw [gate_absent hp, if_neg Bool.false_ne_true, State.respond]

/-- Settles O14: the decode and the outcome of a served read, at each of the five registers. -/
theorem servedReadsAnswerTheirRegister : Obligations.ServedReadsAnswerTheirRegister := fun _ c s =>
  ⟨decode_bus_read (r := .data), exec_readInstr_eq .data c s,
    decode_bus_read (r := .statctl), exec_readInstr_eq .statctl c s,
    decode_bus_read (r := .clkdiv), exec_readInstr_eq .clkdiv c s,
    decode_bus_read (r := .ssel), exec_readInstr_eq .ssel c s,
    decode_bus_read (r := .bank), exec_readInstr_eq .bank c s⟩

end Sys2Proof.Machine

/-! SUPPORT. The served writes (44_register_writes.md R125 to R129). -/

namespace Sys2Proof.Machine

/-- A write whose offset is a register's decodes to the served write of that register (R52). -/
theorem decode_bus_write {t : Transaction} {r : Reg} (hw : t.isWrite = true) (ho : t.offset = r.offset) :
    decode (.bus t) = .ok (writeInstr r t.context) :=
  congrArg Except.ok (decodeBus_write ho hw)

/-- Storing in a register the byte it holds changes nothing: an absent card's write is a write of the old byte. -/
@[simp] theorem RegFile.set_get_self (r : Reg) (f : RegFile) : f.set r (f.get r) = f := by
  cases r <;> rfl

/-- The whole outcome of a served write: its register and the response alone are new, and on an absent card the
register keeps its byte (R101, R102). -/
theorem exec_writeInstr_eq (r : Reg) (c : BusContext) (s : State) :
    exec (writeInstr r c) s =
      .next { s with
        regs := s.regs.set r (if s.present then c.data else s.regs.get r)
        response := .byte 0x00#8 } := by
  rw [exec_writeInstr]
  cases hp : s.present with
  | true => rw [gate_present hp, serveWrite_eq, if_pos rfl]
  | false => rw [gate_absent hp, if_neg Bool.false_ne_true, RegFile.set_get_self, State.respond]

/-- Settles O15: the decode and the outcome of a served write, at each of the five registers. -/
theorem servedWritesStoreTheByte : Obligations.ServedWritesStoreTheByte := fun _ c s =>
  ⟨decode_bus_write (r := .data), exec_writeInstr_eq .data c s,
    decode_bus_write (r := .statctl), exec_writeInstr_eq .statctl c s,
    decode_bus_write (r := .clkdiv), exec_writeInstr_eq .clkdiv c s,
    decode_bus_write (r := .ssel), exec_writeInstr_eq .ssel c s,
    decode_bus_write (r := .bank), exec_writeInstr_eq .bank c s⟩

end Sys2Proof.Machine

/-! SUPPORT. The decoder and the encoder are inverse to each other, and the tables of 30_encoding.md select what the
decoder reads. -/

namespace Sys2Proof.Machine

/-! ## The encoding of the bus operations -/

theorem encode_readInstr (r : Reg) (c : BusContext) : encode (readInstr r c) = .bus (c.access false r.offset) := by
  cases r <;> rfl

theorem encode_writeInstr (r : Reg) (c : BusContext) : encode (writeInstr r c) = .bus (c.access true r.offset) := by
  cases r <;> rfl

theorem wellFormed_readInstr (r : Reg) (c : BusContext) : (readInstr r c).wellFormed = true := by
  cases r <;> rfl

theorem wellFormed_writeInstr (r : Reg) (c : BusContext) : (writeInstr r c).wellFormed = true := by
  cases r <;> rfl

theorem wellFormed_fwd {t : Transaction} : (Instr.fwd t).wellFormed = true ↔ Offset.hit t.offset = false := by
  rw [Instr.wellFormed, Bool.not_eq_true']

theorem wellFormed_load {sl : Slot} : (Instr.load sl).wellFormed = true ↔ sl ≠ 0#3 :=
  decide_eq_true_iff

theorem decode_encode_readInstr (r : Reg) (c : BusContext) :
    decode (encode (readInstr r c)) = .ok (readInstr r c) := by
  rw [encode_readInstr, decode_bus_read (isWrite_access c false _) (offset_access c false _), context_access]

theorem decode_encode_writeInstr (r : Reg) (c : BusContext) :
    decode (encode (writeInstr r c)) = .ok (writeInstr r c) := by
  rw [encode_writeInstr, decode_bus_write (isWrite_access c true _) (offset_access c true _), context_access]

/-- What a transaction decodes to is well-formed, and the transaction is its encoding (R50 to R53). -/
theorem encode_decodeBus (t : Transaction) :
    (decodeBus t).wellFormed = true ∧ encode (decodeBus t) = .bus t := by
  have ht := access_context t
  rcases decodeBus_cases t with ⟨r, ho, hw, hd⟩ | ⟨r, ho, hw, hd⟩ | ⟨hh, hd⟩
  · rw [ho, hw] at ht
    rw [hd, encode_writeInstr, ht]
    exact ⟨wellFormed_writeInstr r _, rfl⟩
  · rw [ho, hw] at ht
    rw [hd, encode_readInstr, ht]
    exact ⟨wellFormed_readInstr r _, rfl⟩
  · rw [hd]
    exact ⟨wellFormed_fwd.2 hh, rfl⟩

/-! ## The command words -/

theorem decodeControl_qry {c : CommandWord} (h : CommandWord.code c = 0b00#2) :
    decodeControl c = .ok (.qry (CommandWord.arg c)) :=
  if_pos h

theorem decodeControl_make_qry (arg : BitVec 3) : decodeControl (CommandWord.make 0b00#2 arg) = .ok (.qry arg) := by
  rw [decodeControl_qry (code_make _ _), arg_make]

theorem decodeControl_make_load {sl : Slot} (h : sl ≠ 0#3) :
    decodeControl (CommandWord.make 0b10#2 sl) = .ok (.load sl) := by
  simp [decodeControl, h]

theorem decode_encode_seten0 : decode (encode .seten0) = .ok .seten0 := by decide

theorem decode_encode_seten1 : decode (encode .seten1) = .ok .seten1 := by decide

theorem decode_encode_load {sl : Slot} (h : sl ≠ 0#3) : decode (encode (.load sl)) = .ok (.load sl) :=
  decodeControl_make_load h

/-- What a command word decodes to is well-formed, and the word is its encoding: each branch of the decoder fixes the
bits that its instruction does not carry (R58, R59). -/
theorem encode_of_decodeControl {c : CommandWord} {i : Instr} (h : decodeControl c = .ok i) :
    i.wellFormed = true ∧ encode i = .control c := by
  have hc := make_code_arg c
  unfold decodeControl at h
  split at h
  case isTrue h0 =>
    cases h
    rw [h0] at hc
    exact ⟨rfl, congrArg _ hc⟩
  split at h
  case isTrue h1 =>
    split at h
    case isTrue ha =>
      cases h
      rw [h1, ha] at hc
      exact ⟨rfl, congrArg _ hc⟩
    split at h
    case isTrue ha =>
      cases h
      rw [h1, ha] at hc
      exact ⟨rfl, congrArg _ hc⟩
    case isFalse => cases h
  split at h
  case isTrue h2 =>
    split at h
    case isTrue => cases h
    case isFalse ha =>
      cases h
      rw [h2] at hc
      exact ⟨wellFormed_load.2 ha, congrArg _ hc⟩
  case isFalse => cases h

/-- Settles O4, instruction by instruction: a served access by its register and context, a forwarded access as it is,
a command by its code and argument. -/
theorem decodeOfEncodeIsIdentity : Obligations.DecodeOfEncodeIsIdentity := by
  intro i hi
  cases i with
  | rdData c => exact decode_encode_readInstr .data c
  | rdStatus c => exact decode_encode_readInstr .statctl c
  | rdClkdiv c => exact decode_encode_readInstr .clkdiv c
  | rdSsel c => exact decode_encode_readInstr .ssel c
  | rdBank c => exact decode_encode_readInstr .bank c
  | wrData c => exact decode_encode_writeInstr .data c
  | wrCtrl c => exact decode_encode_writeInstr .statctl c
  | wrClkdiv c => exact decode_encode_writeInstr .clkdiv c
  | wrSsel c => exact decode_encode_writeInstr .ssel c
  | wrBank c => exact decode_encode_writeInstr .bank c
  | fwd t => exact congrArg Except.ok (decodeBus_unmapped (wellFormed_fwd.1 hi))
  | qry arg => exact decodeControl_make_qry arg
  | seten0 => exact decode_encode_seten0
  | seten1 => exact decode_encode_seten1
  | load sl => exact decode_encode_load (wellFormed_load.1 hi)

/-- Settles O5, port by port. -/
theorem encodeOfDecodeIsIdentity : Obligations.EncodeOfDecodeIsIdentity := by
  intro r i hd
  cases r with
  | bus t =>
    obtain rfl : decodeBus t = i := Except.ok.inj hd
    exact encode_decodeBus t
  | control c => exact encode_of_decodeControl hd

/-- Settles O3: the served accesses by their register's offset, the forwarded ones by theirs, the command words by
their code and argument. -/
theorem knownWordsDecode : Obligations.KnownWordsDecode :=
  ⟨decode_bus_read (r := .data) rfl rfl, decode_bus_read (r := .bank) rfl rfl, decode_bus_write (r := .statctl) rfl rfl,
    congrArg Except.ok (decodeBus_unmapped (by decide)), congrArg Except.ok (decodeBus_unmapped (by decide)),
    decodeControl_make_qry 0b111#3, decode_encode_seten0, decode_encode_seten1,
    decode_encode_load (sl := 3#3) (by decide)⟩

/-! ## The tables -/

/-- The mnemonics of the rows of the table of format B that a key selects. -/
def selectedBusRows (k : DecodeKey) : List String := (busTable.filter fun row => row.selects k).map (·.mnemonic)

/-- The mnemonics of the rows of the table of format C that a word selects. -/
def selectedControlRows (c : CommandWord) : List String :=
  (controlTable.filter fun row => row.selects c).map (·.mnemonic)

/-- A key whose offset is a register's selects the row of its served read or write (R52). -/
theorem selectedBusRows_served (r : Reg) (c : BusContext) :
    selectedBusRows (BitVec.ofBool false ++ r.offset) = [(readInstr r c).mnemonic] ∧
    selectedBusRows (BitVec.ofBool true ++ r.offset) = [(writeInstr r c).mnemonic] := by
  cases r <;> exact ⟨rfl, rfl⟩

/-- The seven FWD patterns are disjoint, and cover the offsets outside the managed range in both directions (R53). -/
theorem selectedBusRows_unmapped :
    ∀ (w : Bool) (o : Offset), Offset.hit o = false → selectedBusRows (BitVec.ofBool w ++ o) = ["FWD"] := by
  decide +kernel

/-- Settles O6, by the three things a transaction can select. -/
theorem busKeySelectsOneRow : Obligations.BusKeySelectsOneRow := by
  refine fun t => ⟨?_, fun h => ?_⟩
  · change selectedBusRows (BitVec.ofBool t.isWrite ++ t.offset) = _
    rcases decodeBus_cases t with ⟨r, ho, hw, hd⟩ | ⟨r, ho, hw, hd⟩ | ⟨hh, hd⟩
    · rw [hd, ho, hw]
      exact (selectedBusRows_served r t.context).2
    · rw [hd, ho, hw]
      exact (selectedBusRows_served r t.context).1
    · rw [hd]
      exact selectedBusRows_unmapped t.isWrite t.offset hh
  · refine congrArg Except.ok (decodeBus_unmapped (Bool.eq_false_iff.2 fun hh => ?_))
    obtain ⟨r, hr⟩ := hit_eq_true_iff.1 hh
    exact h r hr

/-- The patterns of R59 are the words the decoder rejects. -/
theorem reservedWord_eq : ∀ c : CommandWord, reservedWord c = !(decodeControl c).isOk := by decide

/-- A word that is not reserved decodes. -/
theorem decodeControl_of_not_reserved {c : CommandWord} (h : reservedWord c = false) :
    ∃ i, decodeControl c = .ok i := by
  rw [reservedWord_eq] at h
  cases e : decodeControl c with
  | ok i => exact ⟨i, rfl⟩
  | error e' => rw [e] at h; cases h

theorem decodeControl_of_reserved {c : CommandWord} (h : reservedWord c = true) : ∃ e, decodeControl c = .error e := by
  rw [reservedWord_eq] at h
  cases e : decodeControl c with
  | ok i => rw [e] at h; cases h
  | error e' => exact ⟨e', rfl⟩

/-- A word with the code of QRY selects its row, whatever the argument, and so does one with the code of LOAD
(R58). -/
theorem selectedControlRows_code : ∀ arg : BitVec 3,
    selectedControlRows (CommandWord.make 0b00#2 arg) = ["QRY"] ∧
    selectedControlRows (CommandWord.make 0b10#2 arg) = ["LOAD"] := by decide

/-- The row a word selects is the one of the instruction it decodes to, whose encoding it is (R58). -/
theorem selectedControlRows_eq {c : CommandWord} {i : Instr} (h : decodeControl c = .ok i) :
    selectedControlRows c = [i.mnemonic] := by
  have hc := (encode_of_decodeControl h).2
  rcases decodeControl_cases h with ⟨arg, rfl⟩ | rfl | rfl | ⟨sl, -, rfl⟩ <;> cases hc
  · exact (selectedControlRows_code arg).1
  · decide
  · decide
  · exact (selectedControlRows_code sl).2

/-- Settles O7: the reserved words are those the decoder rejects, and every other selects its instruction's row. -/
theorem commandWordSelectsOneRow : Obligations.CommandWordSelectsOneRow := by
  intro c
  cases hr : reservedWord c with
  | true => exact .inl ⟨rfl, decodeControl_of_reserved hr⟩
  | false =>
    obtain ⟨i, hi⟩ := decodeControl_of_not_reserved hr
    exact .inr ⟨rfl, i, hi, selectedControlRows_eq hi⟩

end Sys2Proof.Machine

/-! SUPPORT. What one step does with the first thing that waits, and when it gives a next state (60_exceptions.md
section 7). -/

namespace Sys2Proof.Machine

/-! ## The step by the first thing waiting -/

theorem step_idle {s : State} (hp : s.pending = []) : step s = .next s := by
  rw [step, hp]

theorem step_cons {s : State} {x : Stimulus} {rest : List Stimulus} (hp : s.pending = x :: rest) :
    step s = runStimulus x { s with pending := rest } := by
  rw [step, hp]

theorem runRequest_ok {r : Request} {i : Instr} (hd : decode r = .ok i) (s : State) : runRequest r s = exec i s := by
  rw [runRequest, hd]

theorem runRequest_error {r : Request} {e : DecodeError} (hd : decode r = .error e) (s : State) :
    runRequest r s = .refused (decodeRefusal e) := by
  rw [runRequest, hd]

theorem step_request {s : State} {r : Request} {rest : List Stimulus} {i : Instr}
    (hp : s.pending = .request r :: rest) (hd : decode r = .ok i) : step s = exec i { s with pending := rest } :=
  (step_cons hp).trans (runRequest_ok hd _)

theorem step_bus {s : State} {t : Transaction} {rest : List Stimulus} (hp : s.pending = .request (.bus t) :: rest) :
    step s = exec (decodeBus t) { s with pending := rest } :=
  step_request hp rfl

theorem step_seten0 {s : State} {rest : List Stimulus} (hp : s.pending = .request (encode .seten0) :: rest) :
    step s = exec .seten0 { s with pending := rest } :=
  step_request hp decode_encode_seten0

theorem step_seten1 {s : State} {rest : List Stimulus} (hp : s.pending = .request (encode .seten1) :: rest) :
    step s = exec .seten1 { s with pending := rest } :=
  step_request hp decode_encode_seten1

theorem step_load {s : State} {sl : Slot} {rest : List Stimulus} (hsl : sl ≠ 0#3)
    (hp : s.pending = .request (encode (.load sl)) :: rest) : step s = exec (.load sl) { s with pending := rest } :=
  step_request hp (decode_encode_load hsl)

theorem step_hostWrite {s : State} {a : Nat} {v : Byte} {rest : List Stimulus}
    (hp : s.pending = .hostWrite a v :: rest) (ha : a < s.windowBytes) :
    step s = .next { s with rom := s.rom.write a v, pending := rest } :=
  (step_cons hp).trans (if_pos ha)

theorem step_hostWrite_outside {s : State} {a : Nat} {v : Byte} {rest : List Stimulus}
    (hp : s.pending = .hostWrite a v :: rest) (ha : s.windowBytes ≤ a) :
    step s = .refused (.hostWriteOutsideWindow a) :=
  (step_cons hp).trans (if_neg (Nat.not_lt.2 ha))

/-- A rejected word is refused under its own name, whichever pattern of R59 it has. -/
theorem decodeRefusal_of_error {c : CommandWord} {e : DecodeError} (h : decodeControl c = .error e) :
    decodeRefusal e = .reservedCommand c := by
  unfold decodeControl at h
  repeat' split at h
  all_goals cases h
  all_goals rfl

/-- Settles O9: a step runs what the request decodes to. -/
theorem stepRunsDecodedInstruction : Obligations.StepRunsDecodedInstruction :=
  fun _ _ _ _ => step_request

/-- Settles O10: a reserved word is one the decoder rejects. -/
theorem reservedCommandIsRefused : Obligations.ReservedCommandIsRefused := by
  intro s c rest hp hr
  obtain ⟨e, he⟩ := decodeControl_of_reserved hr
  rw [step_cons hp, ← decodeRefusal_of_error he]
  exact runRequest_error (r := .control c) he _

/-- Settles O11: the idle step, and the host's write by its index. -/
theorem hostWriteChangesOneByteAndIdleNothing : Obligations.HostWriteChangesOneByteAndIdleNothing := by
  refine ⟨fun s => step_idle, fun s a v rest hp => ⟨fun ha => ?_, step_hostWrite_outside hp⟩⟩
  exact ⟨_, step_hostWrite hp ha, Memory.read_write s.rom a v⟩

/-! ## Operations that give a next state -/

theorem exec_seten0_disabled {s : State} (h : s.enabled = false) : exec .seten0 s = .next (s.respond .nothing) :=
  if_neg (Bool.eq_false_iff.1 h)

theorem exec_seten0_enabled {s : State} (h : s.enabled = true) :
    exec .seten0 s = withWindow (State.zeroFootprint s.slot) { s with enabled := false } :=
  if_pos h

theorem exec_seten1_enabled {s : State} (h : s.enabled = true) : exec .seten1 s = .next (s.respond .nothing) :=
  if_pos h

theorem exec_seten1_disabled {s : State} (h : s.enabled = false) :
    exec .seten1 s = withWindow (State.loadInto s.slot) (State.announce { s with enabled := true }) :=
  if_neg (Bool.eq_false_iff.1 h)

theorem exec_load_fits {sl : Slot} {s : State} (h : fits sl s) :
    exec (.load sl) s = .next ((s.loadInto sl).respond .nothing) := by
  change execLoad sl s = _
  rw [execLoad, footprintRefusal_fits.2 h]

theorem exec_load_refused {sl : Slot} {s : State} {r : Refusal} (h : footprintRefusal sl s = some r) :
    exec (.load sl) s = .refused r := by
  change execLoad sl s = _
  rw [execLoad, h]

theorem exec_seten0_fits {s : State} (h : s.enabled = true) (hf : fits s.slot s) :
    exec .seten0 s = .next (State.respond .nothing
      (if s.replies.windowAnswer then (State.callRomWindow { s with enabled := false }).zeroFootprint s.slot
       else State.callRomWindow { s with enabled := false })) :=
  (exec_seten0_enabled h).trans (withWindow_fits (footprintRefusal_fits.2 hf))

theorem exec_seten1_fits {s : State} (h : s.enabled = false) (hf : fits s.slot s) :
    exec .seten1 s = .next (State.respond .nothing
      (if s.replies.windowAnswer then
        (State.callRomWindow (State.announce { s with enabled := true })).loadInto s.slot
       else State.callRomWindow (State.announce { s with enabled := true }))) :=
  (exec_seten1_disabled h).trans (withWindow_fits (footprintRefusal_fits.2 hf))

/-- In a window of at least 2048 bytes the footprint of every valid slot fits. -/
theorem fits_of_window {sl : Slot} {s : State} (hsl : sl ≠ 0#3) (hw : Config.romWinMin ≤ s.windowBytes) : fits sl s :=
  footprintRefusal_fits.1 (footprintRefusal_valid hsl hw)

/-- Under the invariant every command completes: the footprint of `slot` fits, and so does that of any slot a LOAD
names (R135). -/
theorem exec_control_completes {c : CommandWord} {i : Instr} {s : State} (hd : decodeControl c = .ok i)
    (hsl : s.slot ≠ 0#3) (hw : Config.romWinMin ≤ s.windowBytes) : ∃ s', exec i s = .next s' := by
  have hf : fits s.slot s := fits_of_window hsl hw
  rcases decodeControl_cases hd with ⟨arg, rfl⟩ | rfl | rfl | ⟨sl, hsl', rfl⟩
  · exact ⟨_, rfl⟩
  · cases he : s.enabled with
    | true => exact ⟨_, exec_seten0_fits he hf⟩
    | false => exact ⟨_, exec_seten0_disabled he⟩
  · cases he : s.enabled with
    | true => exact ⟨_, exec_seten1_enabled he⟩
    | false => exact ⟨_, exec_seten1_fits he hf⟩
  · exact ⟨_, exec_load_fits (fits_of_window hsl' hw)⟩

/-- Settles O12, stimulus by stimulus; that no step faults is the emptiness of the fault type (R135). -/
theorem stepCompletesExactlyWithinContract : Obligations.StepCompletesExactlyWithinContract := by
  refine ⟨fun s x rest ⟨hsl, hw, _, _⟩ hp => ?_, fun _ f => nomatch f⟩
  match x with
  | .request (.bus t) =>
    obtain ⟨s', hs', -⟩ := busOperationsKeepControlCells t _ { s with pending := rest } rfl
    exact ⟨fun _ => trivial, fun _ => ⟨s', (step_bus hp).trans hs'⟩⟩
  | .request (.control c) =>
    constructor
    · rintro ⟨s', hs'⟩
      cases hd : decodeControl c with
      | ok i => exact ⟨i, hd⟩
      | error e =>
        rw [step_cons hp, runStimulus, runRequest_error (r := .control c) hd] at hs'
        cases hs'
    · rintro ⟨i, hd⟩
      rw [step_request hp (i := i) hd]
      exact exec_control_completes hd hsl hw
  | .hostWrite a v =>
    constructor
    · rintro ⟨s', hs'⟩
      refine Nat.lt_of_not_le fun ha => ?_
      rw [step_hostWrite_outside hp ha] at hs'
      cases hs'
    · exact fun ha => ⟨_, step_hostWrite hp ha⟩

end Sys2Proof.Machine

/-! SUPPORT. The frames: what a bus operation, a control operation and a step leave unchanged. -/

namespace Sys2Proof.Machine

/-! ## The frame of a bus operation -/

/-- What no bus operation changes: all but the registers, the response, the calls and the replies (R21, R35). -/
structure KeptByBus (s s' : State) : Prop where
  enabled : s'.enabled = s.enabled
  firmwareLoaded : s'.firmwareLoaded = s.firmwareLoaded
  slot : s'.slot = s.slot
  windowBytes : s'.windowBytes = s.windowBytes
  rom : s'.rom = s.rom
  events : s'.events = s.events
  pending : s'.pending = s.pending

theorem keptByBus_respond (v : Response) (s : State) : KeptByBus s (s.respond v) := by
  constructor <;> simp

theorem keptByBus_serveWrite (r : Reg) (v : Byte) (s : State) : KeptByBus s (serveWrite r v s) := by
  constructor <;> rw [serveWrite_eq]

theorem keptByBus_forward (t : Transaction) (s : State) : KeptByBus s (forward t s) := by
  constructor <;> rw [forward_eq]

theorem keptByBus_gate {serve : State → State} {s : State} (h : KeptByBus s (serve s)) :
    KeptByBus s (gate serve s) := by
  cases hp : s.present with
  | true => rw [gate_present hp]; exact h
  | false => rw [gate_absent hp]; exact keptByBus_respond _ s

theorem exec_decodeBus_keeps {t : Transaction} {s s' : State} (h : exec (decodeBus t) s = .next s') :
    KeptByBus s s' := by
  rcases exec_decodeBus_cases t s with ⟨r, -, -, he⟩ | ⟨r, -, -, he⟩ | ⟨-, he⟩ <;> rw [he] at h <;> cases h
  · exact keptByBus_gate (keptByBus_serveWrite r t.data s)
  · exact keptByBus_gate (keptByBus_respond _ s)
  · exact keptByBus_gate (keptByBus_forward t s)

/-! ## The frame of a control operation -/

/-- What no control operation changes, and that none clears `firmwareLoaded` (R22, decision D24 of the spec). -/
structure KeptByControl (s s' : State) : Prop where
  regs : s'.regs = s.regs
  windowBytes : s'.windowBytes = s.windowBytes
  pending : s'.pending = s.pending
  firmwareLoaded : s.firmwareLoaded = true → s'.firmwareLoaded = true

theorem keptByControl_respond (v : Response) (s : State) : KeptByControl s (s.respond v) := by
  constructor <;> simp

theorem exec_seten0_keeps {s s' : State} (h : exec .seten0 s = .next s') : KeptByControl s s' := by
  rcases seten0_cases h with ⟨-, rfl⟩ | ⟨-, -, rfl⟩ | ⟨-, -, -, rfl⟩
  · exact keptByControl_respond _ s
  · constructor <;> simp
  · constructor <;> simp

theorem exec_seten1_keeps {s s' : State} (h : exec .seten1 s = .next s') : KeptByControl s s' := by
  rcases seten1_cases h with ⟨-, rfl⟩ | ⟨-, -, rfl⟩ | ⟨-, -, -, rfl⟩
  · exact keptByControl_respond _ s
  · constructor <;> simp
  · obtain ⟨hregs, -, hbytes, -, hpend, hloaded⟩ :=
      loadInto_keeps s.slot (State.callRomWindow (State.announce { s with enabled := true }))
    exact ⟨hregs, hbytes, hpend, hloaded⟩

theorem exec_load_keeps {sl : Slot} {s s' : State} (h : exec (.load sl) s = .next s') : KeptByControl s s' := by
  obtain ⟨-, rfl⟩ := load_cases h
  obtain ⟨hregs, -, hbytes, -, hpend, hloaded⟩ := loadInto_keeps sl s
  exact ⟨hregs, hbytes, hpend, hloaded⟩

theorem exec_qry_eq {arg : BitVec 3} {s s' : State} (h : exec (.qry arg) s = .next s') :
    s' = s.respond (.bool s.present) := by
  cases h
  rfl

theorem exec_control_keeps {c : CommandWord} {i : Instr} {s s' : State} (hd : decodeControl c = .ok i)
    (h : exec i s = .next s') : KeptByControl s s' := by
  rcases decodeControl_cases hd with ⟨arg, rfl⟩ | rfl | rfl | ⟨sl, -, rfl⟩
  · exact exec_qry_eq h ▸ keptByControl_respond _ s
  · exact exec_seten0_keeps h
  · exact exec_seten1_keeps h
  · exact exec_load_keeps h

/-- Settles O42: the registers are in the frame of every control operation. -/
theorem controlOperationsKeepRegisters : Obligations.ControlOperationsKeepRegisters :=
  fun _ _ _ _ hd h => (exec_control_keeps hd h).regs

/-! ## The frame of a step -/

/-- A step takes at most the first thing waiting. -/
theorem step_pending {s s' : State} (h : step s = .next s') : s'.pending = s.pending.tail := by
  rcases step_cases h with ⟨hp, rfl⟩ | ⟨a, v, rest, hp, -, rfl⟩ | ⟨t, rest, hp, he⟩ | ⟨c, i, rest, hp, hd, he⟩
  · rw [hp]; rfl
  · rw [hp]; rfl
  · rw [(exec_decodeBus_keeps he).pending, hp]; rfl
  · rw [(exec_control_keeps hd he).pending, hp]; rfl

/-- No step clears `firmwareLoaded` (R28). -/
theorem step_firmwareLoaded (s s' : State) (h : step s = .next s') (hl : s.firmwareLoaded = true) :
    s'.firmwareLoaded = true := by
  rcases step_cases h with ⟨-, rfl⟩ | ⟨a, v, rest, -, -, rfl⟩ | ⟨t, rest, -, he⟩ | ⟨c, i, rest, -, hd, he⟩
  · exact hl
  · exact hl
  · exact (exec_decodeBus_keeps he).firmwareLoaded.trans hl
  · exact (exec_control_keeps hd he).firmwareLoaded hl

/-- Settles O33: no step clears `firmwareLoaded`, so no run does. -/
theorem firmwareLoadedIsSticky : Obligations.FirmwareLoadedIsSticky :=
  steps_keep step_firmwareLoaded

/-- Behind the gate a register changes only where the operation itself writes it on a present card. -/
theorem gate_regs {serve : State → State} {s : State} (h : (serve s).regs = s.regs) :
    (gate serve s).regs = s.regs := by
  cases hp : s.present with
  | true => rw [gate_present hp, h]
  | false => rw [gate_absent hp, State.respond_regs]

/-- Settles O24: no stimulus but a bus transaction writes the registers, and of the three things a transaction can do
only a served write does, on a present card, to its own register. -/
theorem registerChangesOnlyByServedWrite : Obligations.RegisterChangesOnlyByServedWrite := by
  intro s s' q h hne
  rcases step_cases h with ⟨-, rfl⟩ | ⟨a, v, rest, -, -, rfl⟩ | ⟨t, rest, hp, he⟩ | ⟨c, i, rest, -, hd, he⟩
  · exact absurd rfl hne
  · exact absurd rfl hne
  · rcases exec_decodeBus_cases t { s with pending := rest } with ⟨r, ho, hw, e⟩ | ⟨r, -, -, e⟩ | ⟨-, e⟩ <;>
      rw [e] at he <;> cases he
    · cases hpr : s.present with
      | false =>
        rw [gate_absent (s := { s with pending := rest }) hpr] at hne
        exact absurd rfl hne
      | true =>
        rw [gate_present (s := { s with pending := rest }) hpr, serveWrite_eq] at hne ⊢
        rw [RegFile.get_set] at hne
        obtain rfl : q = r := by
          by_contra hqr
          rw [if_neg hqr] at hne
          exact hne rfl
        exact ⟨t, rest, hp, rfl, hw, ho, RegFile.get_set_self q t.data s.regs⟩
    · exact absurd (congrArg (RegFile.get q) (gate_regs rfl)) hne
    · exact absurd (congrArg (RegFile.get q) (gate_regs rfl)) hne
  · exact absurd (congrArg (RegFile.get q) (exec_control_keeps hd he).regs) hne

end Sys2Proof.Machine

/-! SUPPORT. The window: who writes it and where (20_memory.md section 3), the invariant, and that no operation reads
it (R35). -/

namespace Sys2Proof.Machine

/-! ## Footprints -/

/-- A footprint lies in the indices 256 to 2047 (R33, R108 f). -/
theorem inFootprint_bounds {sl : Slot} {a : Nat} (hsl : sl ≠ 0#3) (h : inFootprint sl a = true) :
    256 ≤ a ∧ a < Config.romWinMin := by
  obtain ⟨hlo, hhi⟩ := slotBase_bounds hsl
  obtain ⟨h1, h2⟩ := inFootprint_iff.1 h
  omega

/-- An index lies in one footprint at most: its slot is the index divided by the page size (R33). -/
theorem inFootprint_unique {p q : Slot} {a : Nat} (hp : inFootprint p a = true) (hq : inFootprint q a = true) :
    p = q := by
  rw [inFootprint_iff, slotBase, Config.pageSize] at hp hq
  exact BitVec.eq_of_toNat_eq (by omega)

theorem inFootprint_eq_false_of_no_slot {sl : Slot} {a : Nat} (hsl : sl ≠ 0#3) (ha : a < 256 ∨ Config.romWinMin ≤ a) :
    inFootprint sl a = false := by
  refine Bool.eq_false_iff.2 fun h => ?_
  obtain ⟨h1, h2⟩ := inFootprint_bounds hsl h
  omega

theorem inFootprint_eq_false_of_ne {p q : Slot} {a : Nat} (hpq : p ≠ q) (hq : inFootprint q a = true) :
    inFootprint p a = false :=
  Bool.eq_false_iff.2 fun hp => hpq (inFootprint_unique hp hq)

/-- Settles O39: the bounds and the disjointness of the footprints. -/
theorem footprintsAreDisjoint : Obligations.FootprintsAreDisjoint := by
  intro p q a hp ha
  obtain ⟨hlo, hhi⟩ := inFootprint_bounds hp ha
  exact ⟨hlo, hhi, inFootprint_unique ha⟩

/-! ## The writers of the window -/

/-- From `s` to `s'` the window stays as it is, or one page of 256 bytes is written to the footprint of `sl`, which
lies in it (R34). -/
def WritesAtMostFootprint (sl : Slot) (s s' : State) : Prop :=
  s'.rom = s.rom ∨ fits sl s ∧ ∃ page : List Byte, page.length = 256 ∧ s'.rom = s.rom.writeFrom (slotBase sl) page

theorem WritesAtMostFootprint.read {sl : Slot} {s s' : State} (h : WritesAtMostFootprint sl s s') {a : Nat}
    (ha : inFootprint sl a = false) : s'.rom.read a = s.rom.read a := by
  rcases h with e | ⟨-, page, hlen, e⟩
  · rw [e]
  · rw [e, Memory.read_image_outside _ hlen ha]

/-- The indices of no slot read as before: a footprint that is written is a valid slot's. -/
theorem WritesAtMostFootprint.read_of_no_slot {sl : Slot} {s s' : State} (h : WritesAtMostFootprint sl s s') {a : Nat}
    (ha : a < 256 ∨ Config.romWinMin ≤ a) : s'.rom.read a = s.rom.read a := by
  rcases h with e | ⟨⟨hsl, hlen⟩, hpage⟩
  · rw [e]
  · exact WritesAtMostFootprint.read (.inr ⟨⟨hsl, hlen⟩, hpage⟩) (inFootprint_eq_false_of_no_slot hsl ha)

/-- A write of a footprint keeps the canonical form. -/
theorem WritesAtMostFootprint.wf {sl : Slot} {s s' : State} (h : WritesAtMostFootprint sl s s')
    (hs : s.rom.wf = true) : s'.rom.wf = true := by
  rcases h with e | ⟨-, page, -, e⟩ <;> rw [e]
  · exact hs
  · exact Memory.writeFrom_wf _ _ _ hs

theorem romInWindow_iff {s : State} : s.romInWindow = true ↔ ∀ c ∈ s.rom, c.1 < s.windowBytes := by
  simp only [State.romInWindow, List.all_eq_true, decide_eq_true_eq]

/-- A write of a footprint that fits keeps the content inside the window. -/
theorem WritesAtMostFootprint.romInWindow {sl : Slot} {s s' : State} (h : WritesAtMostFootprint sl s s')
    (hw : s'.windowBytes = s.windowBytes) (hs : s.romInWindow = true) : s'.romInWindow = true := by
  rw [romInWindow_iff] at hs ⊢
  rw [hw]
  rcases h with e | ⟨⟨-, hfit⟩, page, hlen, e⟩ <;> rw [e]
  · exact hs
  · exact Memory.writeFrom_below _ _ _ _ hs (by omega)

theorem loadInto_writes {sl : Slot} {s : State} (hf : fits sl s) : WritesAtMostFootprint sl s (s.loadInto sl) := by
  rcases loadInto_cases sl s with ⟨-, e⟩ | ⟨-, e, -⟩ | ⟨-, image, -, hlen, e⟩ <;> rw [e]
  · exact .inl rfl
  · exact .inl rfl
  · exact .inr ⟨hf, image, hlen, rfl⟩

theorem exec_seten0_writes {s s' : State} (h : exec .seten0 s = .next s') : WritesAtMostFootprint s.slot s s' := by
  rcases seten0_cases h with ⟨-, rfl⟩ | ⟨-, -, rfl⟩ | ⟨-, -, hf, rfl⟩
  · exact .inl rfl
  · exact .inl rfl
  · exact .inr ⟨hf, zeroPage, zeroPage_length, rfl⟩

theorem exec_seten1_writes {s s' : State} (h : exec .seten1 s = .next s') : WritesAtMostFootprint s.slot s s' := by
  rcases seten1_cases h with ⟨-, rfl⟩ | ⟨-, -, rfl⟩ | ⟨-, -, hf, rfl⟩
  · exact .inl rfl
  · exact .inl rfl
  · exact loadInto_writes (s := State.callRomWindow (State.announce { s with enabled := true })) hf

theorem exec_load_writes {sl : Slot} {s s' : State} (h : exec (.load sl) s = .next s') :
    WritesAtMostFootprint sl s s' := by
  obtain ⟨hf, rfl⟩ := load_cases h
  exact loadInto_writes hf

/-- A control operation writes the footprint of one slot at most. -/
theorem exec_control_writes {c : CommandWord} {i : Instr} {s s' : State} (hd : decodeControl c = .ok i)
    (h : exec i s = .next s') : ∃ sl, WritesAtMostFootprint sl s s' := by
  rcases decodeControl_cases hd with ⟨arg, rfl⟩ | rfl | rfl | ⟨sl, -, rfl⟩
  · exact exec_qry_eq h ▸ ⟨s.slot, .inl rfl⟩
  · exact ⟨s.slot, exec_seten0_writes h⟩
  · exact ⟨s.slot, exec_seten1_writes h⟩
  · exact ⟨sl, exec_load_writes h⟩

/-- After a SETEN.0 that clears `enabled` and has a window, the footprint of `slot` reads 0x00 (R71). -/
theorem exec_seten0_zeroes {s s' : State} (h : exec .seten0 s = .next s') (he : s.enabled = true)
    (hw : s.replies.windowAnswer = true) {a : Nat} (ha : inFootprint s.slot a = true) :
    s'.rom.read a = some 0x00#8 := by
  rcases seten0_cases h with ⟨he', -⟩ | ⟨-, hw', -⟩ | ⟨-, -, -, rfl⟩
  · exact absurd he (ne_true_of_eq_false he')
  · exact absurd hw (ne_true_of_eq_false hw')
  · exact (Memory.read_zeroFootprint s.rom s.slot a).trans (if_pos ha)

/-- Settles O38, operation by operation. -/
theorem windowWrittenOnlyInsideFootprint : Obligations.WindowWrittenOnlyInsideFootprint :=
  ⟨fun _ _ _ h => ⟨(exec_seten0_writes h).read, fun he hw => exec_seten0_zeroes h he hw⟩,
    fun _ _ _ h => (exec_seten1_writes h).read, fun _ _ _ _ h => (exec_load_writes h).read,
    fun _ _ _ h => exec_qry_eq h ▸ rfl, fun _ _ _ h => (exec_decodeBus_keeps h).rom⟩

/-- No step but a host write changes what the indices of no slot read as. -/
theorem step_read_of_no_slot {s s' : State} (h : step s = .next s') (hn : ∀ i v, .hostWrite i v ∉ s.pending) {a : Nat}
    (ha : a < 256 ∨ Config.romWinMin ≤ a) : s'.rom.read a = s.rom.read a := by
  rcases step_cases h with ⟨-, rfl⟩ | ⟨i, v, rest, hp, -, -⟩ | ⟨t, rest, -, he⟩ | ⟨c, i, rest, -, hd, he⟩
  · rfl
  · exact absurd (hp ▸ List.mem_cons_self) (hn i v)
  · rw [(exec_decodeBus_keeps he).rom]
  · obtain ⟨sl, hsl⟩ := exec_control_writes hd he
    exact hsl.read_of_no_slot ha

/-- Settles O40: that no host write waits and that the index reads as at the start are kept together by every step. -/
theorem indicesOfNoSlotAreNeverWritten : Obligations.IndicesOfNoSlotAreNeverWritten := by
  intro k s s' a hn ha h
  refine (steps_keep (P := fun r => (∀ i v, .hostWrite i v ∉ r.pending) ∧ r.rom.read a = s.rom.read a) ?_ k s s' h
    ⟨hn, rfl⟩).2
  rintro r r' hr ⟨hrn, hra⟩
  refine ⟨fun i v hm => hrn i v ?_, (step_read_of_no_slot hr hrn ha).trans hra⟩
  rw [step_pending hr] at hm
  exact List.mem_of_mem_tail hm

/-! ## The invariant -/

theorem exec_seten0_slot {s s' : State} (h : exec .seten0 s = .next s') : s'.slot = s.slot := by
  rcases seten0_cases h with ⟨-, rfl⟩ | ⟨-, -, rfl⟩ | ⟨-, -, -, rfl⟩ <;> rfl

theorem loadInto_slot (sl : Slot) (s : State) : (s.loadInto sl).slot = s.slot ∨ (s.loadInto sl).slot = sl := by
  rcases loadInto_cases sl s with ⟨-, e⟩ | ⟨-, e, -⟩ | ⟨-, image, -, -, e⟩ <;> rw [e]
  · exact .inl rfl
  · exact .inl rfl
  · exact .inr rfl

theorem exec_seten1_slot {s s' : State} (h : exec .seten1 s = .next s') : s'.slot = s.slot := by
  rcases seten1_cases h with ⟨-, rfl⟩ | ⟨-, -, rfl⟩ | ⟨-, -, -, rfl⟩
  · rfl
  · rfl
  · exact (loadInto_slot s.slot (State.callRomWindow (State.announce { s with enabled := true }))).elim id id

/-- No control operation gives `slot` the value 0 (R13). -/
theorem exec_control_slot {c : CommandWord} {i : Instr} {s s' : State} (hd : decodeControl c = .ok i)
    (h : exec i s = .next s') (hs : s.slot ≠ 0#3) : s'.slot ≠ 0#3 := by
  rcases decodeControl_cases hd with ⟨arg, rfl⟩ | rfl | rfl | ⟨sl, hsl, rfl⟩
  · exact exec_qry_eq h ▸ hs
  · exact exec_seten0_slot h ▸ hs
  · exact exec_seten1_slot h ▸ hs
  · obtain ⟨-, rfl⟩ := load_cases h
    rcases loadInto_slot sl s with e | e
    · exact ne_of_eq_of_ne e hs
    · exact ne_of_eq_of_ne e hsl

/-- The host's write of a byte of the window keeps the invariant. -/
theorem inv_hostWrite {s : State} {a : Nat} (v : Byte) (rest : List Stimulus) (h : Inv s) (ha : a < s.windowBytes) :
    Inv { s with rom := s.rom.write a v, pending := rest } := by
  obtain ⟨hslot, hbytes, hwf, hin⟩ := h
  exact ⟨hslot, hbytes, Memory.write_wf _ _ _ hwf,
    romInWindow_iff.2 (Memory.write_below _ _ _ v (romInWindow_iff.1 hin) ha)⟩

/-- A valid slot, the same window length and at most a footprint written keep the invariant. -/
theorem inv_of_writesAtMostFootprint {sl : Slot} {s s' : State} (hs : Inv s) (hslot : s'.slot ≠ 0#3)
    (hbytes : s'.windowBytes = s.windowBytes) (hrom : WritesAtMostFootprint sl s s') : Inv s' := by
  obtain ⟨-, hmin, hwf, hin⟩ := hs
  exact ⟨hslot, hbytes ▸ hmin, hrom.wf hwf, hrom.romInWindow hbytes hin⟩

/-- Settles O43: a bus operation leaves all that the invariant speaks of, a host write keeps its index in the window,
and a control operation writes at most one footprint that fits. -/
theorem stepKeepsInvariant : Obligations.StepKeepsInvariant := by
  intro s s' hs h
  rcases step_cases h with ⟨-, rfl⟩ | ⟨a, v, rest, -, ha, rfl⟩ | ⟨t, rest, -, he⟩ | ⟨c, i, rest, -, hd, he⟩
  · exact hs
  · exact inv_hostWrite v rest hs ha
  · have hk := exec_decodeBus_keeps he
    have hslot : s'.slot = s.slot := hk.slot
    exact inv_of_writesAtMostFootprint (sl := s.slot) hs (hslot ▸ hs.1) hk.windowBytes (.inl hk.rom)
  · obtain ⟨sl, hsl⟩ := exec_control_writes hd he
    exact inv_of_writesAtMostFootprint hs (exec_control_slot hd he hs.1) (exec_control_keeps hd he).windowBytes hsl

/-- Settles O2: slot 7, a window of at least 2048 bytes, and no content. -/
theorem resetSatisfiesInvariant : Obligations.ResetSatisfiesInvariant :=
  ⟨by decide, Nat.le_add_left _ _, reset_rom_wf, rfl⟩

end Sys2Proof.Machine

/-! SUPPORT. The announcements of a run (95_test_vectors.md Part 4, law 13), and two runs that differ in the window's
content (20_memory.md R35). -/

namespace Sys2Proof.Machine

/-! ## The announcements -/

/-- The step from `s` to `s'` is an enable transition (00_scope.md section 7). -/
def enables (s s' : State) : Bool := !s.enabled && s'.enabled

theorem enables_eq_false {s s' : State} (h : s'.enabled = s.enabled) : enables s s' = false := by
  rw [enables, h, Bool.not_and_self]

/-- The events of an enable transition, and of no other step (R70, decision D7 of the spec). -/
def AnnouncesEnabling (s s' : State) : Prop :=
  s'.events = s.events ++ if enables s s' then [.register s.slot, .cardType s.slot Config.cardTypeTag] else []

theorem announcesEnabling_of_keeps {s s' : State} (he : s'.enabled = s.enabled) (hv : s'.events = s.events) :
    AnnouncesEnabling s s' := by
  rw [AnnouncesEnabling, enables_eq_false he, hv, if_neg Bool.false_ne_true, List.append_nil]

theorem exec_seten0_announces {s s' : State} (h : exec .seten0 s = .next s') : AnnouncesEnabling s s' := by
  rcases seten0_cases h with ⟨-, rfl⟩ | ⟨-, -, rfl⟩ | ⟨-, -, -, rfl⟩
  · exact announcesEnabling_of_keeps rfl rfl
  · simp [AnnouncesEnabling, enables]
  · simp [AnnouncesEnabling, enables]

theorem exec_seten1_announces {s s' : State} (h : exec .seten1 s = .next s') : AnnouncesEnabling s s' := by
  rcases seten1_cases h with ⟨-, rfl⟩ | ⟨he, -, rfl⟩ | ⟨he, -, -, rfl⟩
  · exact announcesEnabling_of_keeps rfl rfl
  · simp [AnnouncesEnabling, enables, he]
  · obtain ⟨-, henabled, -, hevents, -, -⟩ :=
      loadInto_keeps s.slot (State.callRomWindow (State.announce { s with enabled := true }))
    simp [AnnouncesEnabling, enables, he, henabled, hevents]

theorem exec_load_announces {sl : Slot} {s s' : State} (h : exec (.load sl) s = .next s') :
    AnnouncesEnabling s s' := by
  obtain ⟨-, rfl⟩ := load_cases h
  obtain ⟨-, henabled, -, hevents, -, -⟩ := loadInto_keeps sl s
  exact announcesEnabling_of_keeps henabled hevents

theorem exec_control_announces {c : CommandWord} {i : Instr} {s s' : State} (hd : decodeControl c = .ok i)
    (h : exec i s = .next s') : AnnouncesEnabling s s' := by
  rcases decodeControl_cases hd with ⟨arg, rfl⟩ | rfl | rfl | ⟨sl, -, rfl⟩
  · exact exec_qry_eq h ▸ announcesEnabling_of_keeps rfl rfl
  · exact exec_seten0_announces h
  · exact exec_seten1_announces h
  · exact exec_load_announces h

/-- A step emits the two events if it is an enable transition, and nothing otherwise. -/
theorem step_announces {s s' : State} (h : step s = .next s') : AnnouncesEnabling s s' := by
  rcases step_cases h with ⟨-, rfl⟩ | ⟨a, v, rest, -, -, rfl⟩ | ⟨t, rest, -, he⟩ | ⟨c, i, rest, -, hd, he⟩
  · exact announcesEnabling_of_keeps rfl rfl
  · exact announcesEnabling_of_keeps rfl rfl
  · exact announcesEnabling_of_keeps (exec_decodeBus_keeps he).enabled (exec_decodeBus_keeps he).events
  · have ha := exec_control_announces hd he
    exact ha

theorem AnnouncesEnabling.registerCount {s s' : State} (h : AnnouncesEnabling s s') :
    registerCount s' = registerCount s + if enables s s' then 1 else 0 := by
  rw [Machine.registerCount, Machine.registerCount, h]
  cases enables s s' <;> simp

theorem AnnouncesEnabling.cardTypeCount {s s' : State} (h : AnnouncesEnabling s s') :
    cardTypeCount s' = cardTypeCount s + if enables s s' then 1 else 0 := by
  rw [Machine.cardTypeCount, Machine.cardTypeCount, h]
  cases enables s s' <;> simp

theorem enableTransitions_succ {s s' : State} (k : Nat) (h : step s = .next s') :
    enableTransitions (k + 1) s = (if enables s s' then 1 else 0) + enableTransitions k s' := by
  rw [enableTransitions, h]
  rfl

/-- A run of `k + 1` steps that ends is a step and a run of `k` steps. -/
theorem steps_succ_cases {k : Nat} {s s' : State} (h : steps (k + 1) s = .next s') :
    ∃ s1, step s = .next s1 ∧ steps k s1 = .next s' := by
  cases e : step s with
  | next s1 => exact ⟨s1, rfl, steps_succ e ▸ h⟩
  | fault f => cases f
  | refused r => rw [steps_refused e] at h; cases h

/-- Settles O32, by induction on the number of steps. -/
theorem announcementsCountEnableTransitions : Obligations.AnnouncementsCountEnableTransitions := by
  intro k
  induction k with
  | zero =>
    intro s s' h
    cases h
    exact ⟨rfl, rfl⟩
  | succ k ih =>
    intro s s' h
    obtain ⟨s1, h1, hk⟩ := steps_succ_cases h
    obtain ⟨hreg, hcard⟩ := ih s1 s' hk
    have ha := step_announces h1
    rw [enableTransitions_succ k h1, hreg, hcard, ha.registerCount, ha.cardTypeCount]
    exact ⟨Nat.add_assoc _ _ _, Nat.add_assoc _ _ _⟩

/-! ## The window's content is not read -/

/-- What is seen, without the window's content, of a run, of a step or of an operation from `s` is what is seen of it
from a state without content: each operation factors through `forgetRom`. -/
def IgnoresRom (f : State → Host.Outcome State Fault Refusal) : Prop :=
  ∀ s, mapNext State.forgetRom (f s) = mapNext State.forgetRom (f s.forgetRom)

theorem ignoresRom_decodeBus (t : Transaction) : IgnoresRom (exec (decodeBus t)) := by
  intro s
  rw [exec_decodeBus_comm t (f := State.forgetRom) rfl (fun _ => rfl) (fun _ => rfl) (fun _ _ => rfl) rfl]
  cases exec (decodeBus t) s <;> rfl

/-- The use of the window ignores its content if what is done with it does. -/
theorem ignoresRom_withWindow {use : State → State}
    (hu : ∀ s, (use s).forgetRom = (use s.forgetRom).forgetRom) : IgnoresRom (withWindow use) := by
  intro s
  have hf : footprintRefusal s.forgetRom.slot s.forgetRom = footprintRefusal s.slot s := rfl
  have hw : s.forgetRom.replies.windowAnswer = s.replies.windowAnswer := rfl
  rw [withWindow, withWindow, hf, hw]
  cases footprintRefusal s.slot s <;> cases s.replies.windowAnswer
  · rfl
  · exact congrArg (fun r => Host.Outcome.next (r.respond .nothing)) (hu s.callRomWindow)
  · rfl
  · rfl

theorem forgetRom_loadInto (sl : Slot) (s : State) :
    (s.loadInto sl).forgetRom = (s.forgetRom.loadInto sl).forgetRom := by
  have he : s.forgetRom.enabled = s.enabled := rfl
  have ha : s.forgetRom.replies.firmwareAnswer = s.replies.firmwareAnswer := rfl
  rw [State.loadInto, State.loadInto, he, ha]
  split
  · rcases s.replies.firmwareAnswer with _ | image
    · rfl
    · rw [State.accept, State.accept]
      split <;> rfl
  · rfl

theorem forgetRom_zeroFootprint (sl : Slot) (s : State) :
    (s.zeroFootprint sl).forgetRom = (s.forgetRom.zeroFootprint sl).forgetRom := by
  simp only [State.forgetRom, State.zeroFootprint]

theorem ignoresRom_seten0 : IgnoresRom (exec .seten0) := by
  intro s
  cases he : s.enabled with
  | true =>
    rw [exec_seten0_enabled he, exec_seten0_enabled (s := s.forgetRom) he]
    exact ignoresRom_withWindow (forgetRom_zeroFootprint s.slot) { s with enabled := false }
  | false =>
    rw [exec_seten0_disabled he, exec_seten0_disabled (s := s.forgetRom) he]
    rfl

theorem ignoresRom_seten1 : IgnoresRom (exec .seten1) := by
  intro s
  cases he : s.enabled with
  | true =>
    rw [exec_seten1_enabled he, exec_seten1_enabled (s := s.forgetRom) he]
    rfl
  | false =>
    rw [exec_seten1_disabled he, exec_seten1_disabled (s := s.forgetRom) he]
    exact ignoresRom_withWindow (forgetRom_loadInto s.slot) (State.announce { s with enabled := true })

theorem ignoresRom_load (sl : Slot) : IgnoresRom (exec (.load sl)) := by
  intro s
  have hf : footprintRefusal sl s.forgetRom = footprintRefusal sl s := rfl
  change mapNext _ (execLoad sl s) = mapNext _ (execLoad sl s.forgetRom)
  rw [execLoad, execLoad, hf]
  cases footprintRefusal sl s with
  | none => exact congrArg (fun r => Host.Outcome.next (r.respond .nothing)) (forgetRom_loadInto sl s)
  | some r => rfl

theorem ignoresRom_control (c : CommandWord) : IgnoresRom (runRequest (.control c)) := by
  intro s
  cases hd : decodeControl c with
  | error e => rw [runRequest_error (r := .control c) hd, runRequest_error (r := .control c) hd]
  | ok i =>
    rw [runRequest_ok (r := .control c) hd, runRequest_ok (r := .control c) hd]
    rcases decodeControl_cases hd with ⟨arg, rfl⟩ | rfl | rfl | ⟨sl, -, rfl⟩
    · rfl
    · exact ignoresRom_seten0 s
    · exact ignoresRom_seten1 s
    · exact ignoresRom_load sl s

theorem ignoresRom_hostWrite (a : Nat) (v : Byte) : IgnoresRom (runHostWrite a v) := by
  intro s
  have hw : s.forgetRom.windowBytes = s.windowBytes := rfl
  rw [runHostWrite, runHostWrite, hw]
  split <;> rfl

theorem ignoresRom_stimulus : ∀ x : Stimulus, IgnoresRom (runStimulus x)
  | .request (.bus t) => ignoresRom_decodeBus t
  | .request (.control c) => ignoresRom_control c
  | .hostWrite a v => ignoresRom_hostWrite a v

theorem ignoresRom_step : IgnoresRom step := by
  intro s
  cases hp : s.pending with
  | nil =>
    rw [step_idle hp, step_idle (s := s.forgetRom) hp]
    rfl
  | cons x rest =>
    rw [step_cons hp, step_cons (s := s.forgetRom) hp]
    exact ignoresRom_stimulus x { s with pending := rest }

/-- Runs ignore the window's content, by induction on their length: after the first step the two runs go on from
states that look alike without it. -/
theorem ignoresRom_steps (k : Nat) : IgnoresRom (steps k) := by
  induction k with
  | zero => exact fun _ => rfl
  | succ k ih =>
    intro s
    have hstep := ignoresRom_step s
    cases h : step s with
    | fault f => cases f
    | next s1 =>
      cases h' : step s.forgetRom with
      | fault f => cases f
      | refused r => rw [h, h'] at hstep; cases hstep
      | next s2 =>
        rw [h, h'] at hstep
        have hsame : s1.forgetRom = s2.forgetRom := Host.Outcome.next.inj hstep
        rw [steps_succ h, steps_succ h', ih s1, ih s2, hsame]
    | refused r =>
      cases h' : step s.forgetRom with
      | fault f => cases f
      | next s2 => rw [h, h'] at hstep; cases hstep
      | refused r' =>
        rw [h, h'] at hstep
        cases hstep
        rw [steps_refused h, steps_refused h']

/-- Settles O41: both runs look like the run from the state without content. -/
theorem windowContentIsNeverRead : Obligations.WindowContentIsNeverRead :=
  fun k s m => (ignoresRom_steps k { s with rom := m }).trans (ignoresRom_steps k s).symm

end Sys2Proof.Machine

/-! SUPPORT. Bus transactions whole: the absent card, the forwarded access, the multiplexer's equations
(42_dispatch.md section 5), and sequences of transactions to a present card. -/

namespace Sys2Proof.Machine

/-! ## Absent cards and forwarded accesses -/

/-- Settles O18: behind the gate each of the three things a transaction can do answers 0x00 on an absent card. -/
theorem absentCardIsInvisible : Obligations.AbsentCardIsInvisible := by
  intro t i s hp hd
  obtain rfl : decodeBus t = i := Except.ok.inj hd
  rcases exec_decodeBus_cases t s with ⟨r, -, -, he⟩ | ⟨r, -, -, he⟩ | ⟨-, he⟩ <;>
    rw [he, gate_absent hp, State.respond]

/-- Settles O16: the gate, and the forwarded access behind it. -/
theorem forwardedAccessAnswersFallback : Obligations.ForwardedAccessAnswersFallback := by
  refine fun t s => ⟨fun hp => ?_, fun hp => ?_⟩
  · rw [exec_fwd, gate_present hp, forward_eq]
  · rw [exec_fwd, gate_absent hp, State.respond]

/-- Settles O21: `slot`, the window and its length are seen neither by the gate nor by what is behind it. -/
theorem busOperationsNeitherReadNorWriteSlotOrWindow : Obligations.BusOperationsNeitherReadNorWriteSlotOrWindow :=
  fun t _ sl m n => exec_decodeBus_comm t (f := fun s' => { s' with slot := sl, rom := m, windowBytes := n }) rfl
    (fun _ => rfl) (fun _ => rfl) (fun _ _ => rfl) rfl

/-! ## The multiplexer's signals -/

theorem hitReg_of_offset {t : Transaction} {r : Reg} (ho : t.offset = r.offset) (q : Reg) :
    hitReg q t = decide (q = r) := by
  rw [hitReg, ho]
  exact decide_eq_decide.2 ⟨fun h => (offset_injective h).symm, fun h => h ▸ rfl⟩

theorem hitReg_of_unmapped {t : Transaction} (hh : Offset.hit t.offset = false) (q : Reg) : hitReg q t = false :=
  decide_eq_false fun h => ne_true_of_eq_false hh (hit_eq_true_iff.2 ⟨q, h⟩)

theorem fallbackRequest_of_offset {t : Transaction} {r : Reg} (ho : t.offset = r.offset) (s : State) :
    fallbackRequest t s = false :=
  Bool.eq_false_iff.2 fun h => ne_true_of_eq_false (fallbackRequest_eq_true_iff.1 h).2 (hit_eq_true_iff.2 ⟨r, ho⟩)

theorem fallbackRequest_of_unmapped {t : Transaction} (hh : Offset.hit t.offset = false) (s : State) :
    fallbackRequest t s = s.present := by
  rw [fallbackRequest, hitAny_eq_hit, hh, Bool.not_false, Bool.and_true]

theorem readSelect_of_read {t : Transaction} {r : Reg} (ho : t.offset = r.offset) (hw : t.isWrite = false) (s : State)
    (q : Reg) : readSelect q t s = (s.present && decide (q = r)) := by
  rw [readSelect, hitReg_of_offset ho, hw, Bool.not_false, Bool.and_true]

theorem readSelect_of_write {t : Transaction} (hw : t.isWrite = true) (s : State) (q : Reg) :
    readSelect q t s = false := by
  rw [readSelect, hw, Bool.not_true, Bool.and_false, Bool.false_and]

theorem readSelect_of_unmapped {t : Transaction} (hh : Offset.hit t.offset = false) (s : State) (q : Reg) :
    readSelect q t s = false := by
  rw [readSelect, hitReg_of_unmapped hh, Bool.and_false]

theorem writeEnable_of_write {t : Transaction} {r : Reg} (ho : t.offset = r.offset) (hw : t.isWrite = true) (s : State)
    (q : Reg) : writeEnable q t s = (s.present && decide (q = r)) := by
  rw [writeEnable, hitReg_of_offset ho, hw, Bool.and_true]

theorem writeEnable_of_read {t : Transaction} (hw : t.isWrite = false) (s : State) (q : Reg) :
    writeEnable q t s = false := by
  rw [writeEnable, hw, Bool.and_false, Bool.false_and]

theorem writeEnable_of_unmapped {t : Transaction} (hh : Offset.hit t.offset = false) (s : State) (q : Reg) :
    writeEnable q t s = false := by
  rw [writeEnable, hitReg_of_unmapped hh, Bool.and_false]

/-! ## The multiplexer's outputs -/

/-- The register file the equations give (R104). -/
def muxRegs (t : Transaction) (s : State) : RegFile :=
  { data := nextReg .data s.regs.data t s
    statctl := nextReg .statctl s.regs.statctl t s
    clkdiv := nextReg .clkdiv s.regs.clkdiv t s
    ssel := nextReg .ssel s.regs.ssel t s
    bank := nextReg .bank s.regs.bank t s }

theorem muxRegs_get (t : Transaction) (s : State) (q : Reg) :
    (muxRegs t s).get q = if writeEnable q t s then t.data else s.regs.get q := by
  cases q <;> rfl

theorem muxRegs_of_no_write {t : Transaction} {s : State} (h : ∀ q, writeEnable q t s = false) :
    muxRegs t s = s.regs :=
  RegFile.ext_get fun q => by rw [muxRegs_get, h, if_neg Bool.false_ne_true]

theorem muxRegs_of_write {t : Transaction} {r : Reg} (ho : t.offset = r.offset) (hw : t.isWrite = true) (s : State) :
    muxRegs t s = s.regs.set r (if s.present then t.data else s.regs.get r) := by
  refine RegFile.ext_get fun q => ?_
  rw [muxRegs_get, writeEnable_of_write ho hw, RegFile.get_set]
  by_cases hq : q = r
  · subst hq
    simp
  · simp [hq]

theorem responseMux_of_no_read {fb : Byte} {t : Transaction} {s : State} (h : ∀ q, readSelect q t s = false) :
    responseMux fb t s = if fallbackRequest t s then fb else 0x00#8 := by
  simp only [responseMux, h, Bool.false_eq_true, if_false]

theorem responseMux_of_read (fb : Byte) {t : Transaction} {r : Reg} (ho : t.offset = r.offset) (hw : t.isWrite = false)
    (s : State) : responseMux fb t s = if s.present then s.regs.get r else 0x00#8 := by
  simp only [responseMux, fallbackRequest_of_offset ho, readSelect_of_read ho hw]
  cases s.present with
  | false => simp
  | true => cases r <;> simp [RegFile.get]

/-- The next state the equations of R104 give. -/
def muxNext (t : Transaction) (s : State) : State :=
  { s with
    regs := muxRegs t s
    response := .byte (responseMux (s.replies.fallbackAnswer t) t s)
    calls := if fallbackRequest t s then s.calls ++ [.fallback t] else s.calls
    replies := if fallbackRequest t s then s.replies.afterFallback else s.replies }

theorem muxNext_of_write {t : Transaction} {r : Reg} (ho : t.offset = r.offset) (hw : t.isWrite = true) (s : State) :
    muxNext t s = gate (serveWrite r t.data) s := by
  rw [muxNext, muxRegs_of_write ho hw, responseMux_of_no_read (readSelect_of_write hw s), fallbackRequest_of_offset ho]
  cases hp : s.present with
  | true => rw [gate_present hp]; rfl
  | false =>
    rw [gate_absent hp, if_neg Bool.false_ne_true, RegFile.set_get_self]
    rfl

theorem muxNext_of_read {t : Transaction} {r : Reg} (ho : t.offset = r.offset) (hw : t.isWrite = false) (s : State) :
    muxNext t s = gate (serveRead r) s := by
  rw [muxNext, muxRegs_of_no_write (writeEnable_of_read hw s), responseMux_of_read _ ho hw,
    fallbackRequest_of_offset ho]
  cases hp : s.present with
  | true => rw [gate_present hp]; rfl
  | false => rw [gate_absent hp]; rfl

theorem muxNext_of_unmapped {t : Transaction} (hh : Offset.hit t.offset = false) (s : State) :
    muxNext t s = gate (forward t) s := by
  rw [muxNext, muxRegs_of_no_write (writeEnable_of_unmapped hh s), responseMux_of_no_read (readSelect_of_unmapped hh s),
    fallbackRequest_of_unmapped hh]
  cases hp : s.present with
  | true => rw [gate_present hp]; rfl
  | false => rw [gate_absent hp]; rfl

theorem exec_decodeBus_eq_muxNext (t : Transaction) (s : State) : exec (decodeBus t) s = .next (muxNext t s) := by
  rcases exec_decodeBus_cases t s with ⟨r, ho, hw, he⟩ | ⟨r, ho, hw, he⟩ | ⟨hh, he⟩
  · rw [he, muxNext_of_write ho hw]
  · rw [he, muxNext_of_read ho hw]
  · rw [he, muxNext_of_unmapped hh]

/-- At most one source of the response is selected (R104). -/
theorem selects_at_most_one (t : Transaction) (s : State) :
    ([fallbackRequest t s, readSelect .data t s, readSelect .statctl t s, readSelect .clkdiv t s,
      readSelect .ssel t s, readSelect .bank t s].filter id).length ≤ 1 := by
  rcases decodeBus_cases t with ⟨r, ho, hw, -⟩ | ⟨r, ho, hw, -⟩ | ⟨hh, -⟩
  · simp [fallbackRequest_of_offset ho, readSelect_of_write hw]
  · simp only [fallbackRequest_of_offset ho, readSelect_of_read ho hw]
    cases s.present <;> cases r <;> decide
  · simp only [fallbackRequest_of_unmapped hh, readSelect_of_unmapped hh]
    cases s.present <;> decide

/-- Settles O20: the equations give what the gate and the three things behind it do. -/
theorem dispatcherEqualsMultiplexer : Obligations.DispatcherEqualsMultiplexer :=
  fun t s => ⟨exec_decodeBus_eq_muxNext t s, selects_at_most_one t s⟩

/-! ## Transactions to a present card -/

theorem lastWritten_cons (r : Reg) (old : Byte) (t : Transaction) (ts : List Transaction) :
    lastWritten r old (t :: ts) = lastWritten r (lastWritten r old [t]) ts := rfl

/-- What a transaction to a present card leaves in the registers: the byte it writes in the register it writes. -/
theorem muxRegs_present {s : State} (hp : s.present = true) (t : Transaction) (q : Reg) :
    (muxRegs t s).get q = lastWritten q (s.regs.get q) [t] := by
  rw [muxRegs_get, writeEnable, hp, Bool.true_and]
  rfl

/-- A transaction that waits first at a present card completes, leaves the card present, and leaves in each register
the latest byte written to it. -/
theorem step_bus_present {s : State} {t : Transaction} {rest : List Stimulus} (hp : s.present = true)
    (hq : s.pending = .request (.bus t) :: rest) :
    ∃ s', step s = .next s' ∧ s'.pending = rest ∧ s'.present = true ∧
      ∀ q, s'.regs.get q = lastWritten q (s.regs.get q) [t] :=
  ⟨_, (step_bus hq).trans (exec_decodeBus_eq_muxNext t _), rfl, hp,
    muxRegs_present (s := { s with pending := rest }) hp t⟩

/-- A read that waits first at a present card answers the byte its register holds, and leaves every register. -/
theorem step_read_present {s : State} {t : Transaction} {r : Reg} {rest : List Stimulus} (hp : s.present = true)
    (hw : t.isWrite = false) (ho : t.offset = r.offset) (hq : s.pending = .request (.bus t) :: rest) :
    step s = .next { s with response := .byte (s.regs.get r), pending := rest } := by
  rw [step_bus hq, exec_decodeBus_read ho hw, gate_present (s := { s with pending := rest }) hp, serveRead_eq]

/-- Settles O23, by induction on the transactions: the first leaves the card present with the latest bytes in the
registers, and the rest begin with these as the old ones. -/
theorem readReturnsLatestWrite : Obligations.ReadReturnsLatestWrite := by
  intro ts
  induction ts with
  | nil =>
    intro s r t rest hp hw ho hq
    exact ⟨_, steps_succ (step_read_present hp hw ho hq), rfl, hp, rfl, fun _ => rfl⟩
  | cons t₀ ts ih =>
    intro s r t rest hp hw ho hq
    obtain ⟨s1, h1, hq1, hp1, hregs1⟩ := step_bus_present (t := t₀) hp hq
    obtain ⟨s', h', hq', hp', hresp, hregs⟩ := ih s1 r t rest hp1 hw ho hq1
    refine ⟨s', (steps_succ h1).trans h', hq', hp', ?_, fun q => ?_⟩
    · rw [hresp, hregs1, lastWritten_cons r _ t₀ ts]
    · rw [hregs, hregs1, lastWritten_cons q _ t₀ ts]

/-- The latest byte after one write. -/
theorem lastWritten_write {w : Transaction} {r : Reg} (hw : w.isWrite = true) (ho : w.offset = r.offset) (q : Reg)
    (old : Byte) : lastWritten q old [w] = if q = r then w.data else old := by
  have hq : (w.offset = q.offset) = (q = r) := by
    rw [ho]
    exact propext ⟨fun h => (offset_injective h).symm, fun h => h ▸ rfl⟩
  simp only [lastWritten, hw, hq, Bool.true_and, decide_eq_true_eq]

/-- Settles O22: the sequence of O23 with one transaction, the write. -/
theorem registerRoundTrip : Obligations.RegisterRoundTrip := by
  intro s r w t rest hp hw ht howr hotr hq
  obtain ⟨s', hs', hpend, -, hresp, hregs⟩ := readReturnsLatestWrite [w] s r t rest hp ht hotr hq
  refine ⟨s', hs', ?_, RegFile.ext_get fun q => ?_, hpend⟩
  · rw [hresp, lastWritten_write hw howr, if_pos rfl]
  · rw [hregs, lastWritten_write hw howr, RegFile.get_set]

end Sys2Proof.Machine

/-! SUPPORT. The control operations whole (40_activation.md sections 1 to 4, 41_firmware_load.md section 1). -/

namespace Sys2Proof.Machine

/-! ## Operations that change the response only -/

/-- Settles O25: the words with the code of QRY by the decoder's first branch, and QRY by its meaning. -/
theorem queryReturnsPresent : Obligations.QueryReturnsPresent :=
  ⟨fun c hc => ⟨CommandWord.arg c, decodeControl_qry (c := c) hc⟩, fun _ _ => rfl⟩

/-- Settles O26: the no-op branches of R70 and R71. -/
theorem repeatedSetEnabledIsNoOp : Obligations.RepeatedSetEnabledIsNoOp :=
  fun _ => ⟨exec_seten1_enabled, exec_seten0_disabled⟩

/-! ## The load -/

theorem footprintRefusal_slot_zero (s : State) : footprintRefusal 0#3 s = some (.slotOutOfRange 0#3) :=
  if_pos rfl

theorem footprintRefusal_window_short {sl : Slot} {s : State} (hsl : sl ≠ 0#3)
    (hw : s.windowBytes ≤ slotBase sl + 255) :
    footprintRefusal sl s = some (.windowTooShort sl) := by
  rw [footprintRefusal, if_neg hsl, if_neg (Nat.not_lt.2 hw)]

/-- Settles O36: the two refusals of R89. -/
theorem loadOutsideContractIsRefused : Obligations.LoadOutsideContractIsRefused :=
  fun s => ⟨exec_load_refused (footprintRefusal_slot_zero s),
    fun _ hsl hw => exec_load_refused (footprintRefusal_window_short hsl hw)⟩

theorem loadInto_disabled {sl : Slot} {s : State} (he : s.enabled = false) : s.loadInto sl = s :=
  if_neg (ne_true_of_eq_false he)

/-- A load whose answer is none, or not 256 bytes, makes the fetch and nothing else (R86). -/
theorem loadInto_failed {sl : Slot} {s : State} (he : s.enabled = true)
    (ho : imageOk s.replies.firmwareAnswer = false) :
    s.loadInto sl = s.callFwFetch := by
  rcases loadInto_cases sl s with ⟨he', -⟩ | ⟨-, e, -⟩ | ⟨-, image, ha, hlen, -⟩
  · exact absurd he (ne_true_of_eq_false he')
  · exact e
  · exact absurd hlen (imageOk_eq_false.1 ho image ha)

/-- A load whose answer is an image of 256 bytes installs it (R87). -/
theorem loadInto_succeeded {sl : Slot} {s : State} {image : List Byte} (he : s.enabled = true)
    (ha : s.replies.firmwareAnswer = some image) (hlen : image.length = 256) :
    s.loadInto sl = s.callFwFetch.install sl image := by
  rw [State.loadInto, if_pos he, ha]
  exact if_pos hlen

/-- Settles O34: the three things the body of a load can do. -/
theorem loadEffects : Obligations.LoadEffects := by
  refine fun sl s hf => ⟨fun he => ?_, fun he ho => ?_, fun image he ha hlen => ?_⟩
  · rw [exec_load_fits hf, loadInto_disabled he, State.respond]
  · rw [exec_load_fits hf, loadInto_failed he ho]
    rfl
  · rw [exec_load_fits hf, loadInto_succeeded he ha hlen]
    rfl

/-- Settles O35: the outcome is that of O34, read inside and outside the range the copy writes. -/
theorem loadCopiesImageInOrder : Obligations.LoadCopiesImageInOrder := by
  intro sl s image hf he ha hlen
  obtain ⟨-, -, hok⟩ := loadEffects sl s hf
  refine ⟨_, hok image he ha hlen, fun i hi => ?_, fun a hout => Memory.read_image_outside s.rom hlen hout⟩
  have hi' : i < image.length := hlen ▸ hi
  rw [Memory.read_writeFrom_inside s.rom hi', List.getElem?_eq_getElem hi']

/-! ## The enable and the disable transition -/

/-- Settles O27: without a window the announcement alone, with one also what the body of a load does. -/
theorem enableTransitionEffects : Obligations.EnableTransitionEffects := by
  refine fun s he hf => ⟨fun hw => ?_, fun hw ho => ?_, fun image hw ha hlen => ?_⟩
  · rw [exec_seten1_fits he hf, hw, if_neg Bool.false_ne_true]
    rfl
  · rw [exec_seten1_fits he hf, hw, if_pos rfl, loadInto_failed rfl ho]
    simp [State.respond, State.callFwFetch, State.callRomWindow, State.announce]
  · rw [exec_seten1_fits he hf, hw, if_pos rfl, loadInto_succeeded rfl ha hlen]
    simp [State.respond, State.callFwFetch, State.callRomWindow, State.announce, State.install]

/-- Settles O28: with a window the footprint is zeroed, without one the window is as before. -/
theorem disableTransitionZeroesExactlyFootprint : Obligations.DisableTransitionZeroesExactlyFootprint := by
  intro s he hf
  rw [exec_seten0_fits he hf]
  cases s.replies.windowAnswer with
  | true => exact ⟨s.rom.writeFrom (slotBase s.slot) zeroPage, rfl, Memory.read_zeroFootprint s.rom s.slot⟩
  | false => exact ⟨s.rom, rfl, fun _ => rfl⟩

/-! ## The activation state -/

/-- The activation state of these values of `enabled` and `firmwareLoaded` (R73). -/
def activationOf (enabled loaded : Bool) : Activation :=
  match enabled, loaded with
  | false, false => .disabled
  | true, false => .enabledNotLoaded
  | true, true => .enabledLoaded
  | false, true => .disabledStaleLoaded

theorem activation_eq (s : State) : s.activation = activationOf s.enabled s.firmwareLoaded := rfl

/-- The column SETEN.1 of R73 as two bits: `enabled` is set, and a successful load at a transition sets
`firmwareLoaded`. -/
theorem afterSeten1_activationOf : ∀ e l win ok : Bool,
    (activationOf e l).afterSeten1 win ok = activationOf true (l || (!e && win && ok)) := by decide

/-- The column SETEN.0 of R73: `enabled` is cleared, `firmwareLoaded` stays. -/
theorem afterSeten0_activationOf : ∀ e l : Bool, (activationOf e l).afterSeten0 = activationOf false l := by decide

/-- The columns of LOAD of R73: a successful load on an enabled card sets `firmwareLoaded`. -/
theorem afterLoad_activationOf : ∀ e l ok : Bool,
    (activationOf e l).afterLoad ok = activationOf e (l || (e && ok)) := by decide

theorem loadInto_enabled (sl : Slot) (s : State) : (s.loadInto sl).enabled = s.enabled := by
  obtain ⟨-, henabled, -⟩ := loadInto_keeps sl s
  exact henabled

theorem loadInto_firmwareLoaded (sl : Slot) (s : State) :
    (s.loadInto sl).firmwareLoaded = (s.firmwareLoaded || (s.enabled && imageOk s.replies.firmwareAnswer)) := by
  rcases loadInto_cases sl s with ⟨he, e⟩ | ⟨-, e, hno⟩ | ⟨he, image, ha, hlen, e⟩
  · simp [e, he]
  · simp [e, imageOk_eq_false.2 hno]
  · simp [e, he, imageOk_eq_true.2 ⟨image, ha, hlen⟩]

theorem exec_seten1_cells {s s' : State} (h : exec .seten1 s = .next s') :
    s'.enabled = true ∧ s'.firmwareLoaded = (s.firmwareLoaded ||
      (!s.enabled && s.replies.windowAnswer && imageOk s.replies.afterWindow.firmwareAnswer)) := by
  rcases seten1_cases h with ⟨he, rfl⟩ | ⟨-, hw, rfl⟩ | ⟨he, hw, -, rfl⟩
  · simp [he]
  · simp [hw]
  · simp [loadInto_enabled, loadInto_firmwareLoaded, he, hw]

theorem exec_seten0_cells {s s' : State} (h : exec .seten0 s = .next s') :
    s'.enabled = false ∧ s'.firmwareLoaded = s.firmwareLoaded := by
  rcases seten0_cases h with ⟨he, rfl⟩ | ⟨-, -, rfl⟩ | ⟨-, -, -, rfl⟩
  · exact ⟨he, rfl⟩
  · exact ⟨rfl, rfl⟩
  · exact ⟨rfl, rfl⟩

theorem exec_load_cells {sl : Slot} {s s' : State} (h : exec (.load sl) s = .next s') :
    s'.enabled = s.enabled ∧
    s'.firmwareLoaded = (s.firmwareLoaded || (s.enabled && imageOk s.replies.firmwareAnswer)) := by
  obtain ⟨-, rfl⟩ := load_cases h
  exact ⟨loadInto_enabled sl s, loadInto_firmwareLoaded sl s⟩

/-- Settles O29, column by column. -/
theorem activationFollowsTransitionTable : Obligations.ActivationFollowsTransitionTable := by
  refine ⟨fun s s' h => ?_, fun s s' h => ?_, fun sl s s' h => ?_, fun arg s s' h => ?_, fun t s s' h => ?_⟩
  · obtain ⟨he, hl⟩ := exec_seten1_cells h
    rw [activation_eq, activation_eq, he, hl, afterSeten1_activationOf]
  · obtain ⟨he, hl⟩ := exec_seten0_cells h
    rw [activation_eq, activation_eq, he, hl, afterSeten0_activationOf]
  · obtain ⟨he, hl⟩ := exec_load_cells h
    rw [activation_eq, activation_eq, he, hl, afterLoad_activationOf]
  · rw [exec_qry_eq h]
    rfl
  · have hk := exec_decodeBus_keeps h
    rw [activation_eq, activation_eq, hk.enabled, hk.firmwareLoaded]

end Sys2Proof.Machine

/-! SUPPORT. Runs of two control operations: disabling and enabling again (40_activation.md R75,
70_reset_and_hazards.md R159), and moving the slot (41_firmware_load.md R90, 70_reset_and_hazards.md R161). -/

namespace Sys2Proof.Machine

theorem steps_one {s s' : State} (h : step s = .next s') : steps 1 s = .next s' :=
  steps_succ h

theorem steps_two {s s1 s2 : State} (h1 : step s = .next s1) (h2 : step s1 = .next s2) : steps 2 s = .next s2 :=
  (steps_succ h1).trans (steps_one h2)

/-! ## The disable transition as a step -/

/-- The state after a SETEN.0 on an enabled card, with `m` the window and `rest` what still waits (R71). -/
def disabledWith (m : Memory) (rest : List Stimulus) (s : State) : State :=
  { s with
    enabled := false
    rom := m
    calls := s.calls ++ [.romWindow]
    replies := s.replies.afterWindow
    response := .nothing
    pending := rest }

theorem step_disable {s : State} {rest : List Stimulus} (he : s.enabled = true) (hf : fits s.slot s)
    (hp : s.pending = .request (encode .seten0) :: rest) :
    ∃ m : Memory, step s = .next (disabledWith m rest s) ∧
      (∀ a, inFootprint s.slot a = false → m.read a = s.rom.read a) ∧
      (s.replies.windowAnswer = true → ∀ a, inFootprint s.slot a = true → m.read a = some 0x00#8) := by
  obtain ⟨m, hm, hread⟩ := disableTransitionZeroesExactlyFootprint { s with pending := rest } he hf
  refine ⟨m, (step_seten0 hp).trans hm, fun a ha => ?_, fun hw a ha => ?_⟩
  · rw [hread, ha, Bool.and_false, if_neg Bool.false_ne_true]
  · rw [hread, hw, ha, Bool.and_self, if_pos rfl]

/-! ## Enabling again -/

/-- A SETEN.1 for a footprint that fits completes, whatever the window and the firmware store answer. -/
theorem exec_seten1_completes {s : State} (hf : fits s.slot s) : ∃ s', exec .seten1 s = .next s' := by
  cases he : s.enabled with
  | true => exact ⟨_, exec_seten1_enabled he⟩
  | false => exact ⟨_, exec_seten1_fits he hf⟩

/-- A SETEN.1 makes a loaded card present. -/
theorem exec_seten1_present {s s' : State} (h : exec .seten1 s = .next s') (hl : s.firmwareLoaded = true) :
    s'.present = true := by
  obtain ⟨he, hl'⟩ := exec_seten1_cells h
  rw [State.present, he, hl', hl, Bool.true_or, Bool.and_self]

/-- A loaded card that is disabled and enabled again is present, with its registers, and with the window as before
outside its footprint (R75). -/
theorem reenable {s : State} {rest : List Stimulus} (he : s.enabled = true) (hl : s.firmwareLoaded = true)
    (hf : fits s.slot s) (hp : s.pending = .request (encode .seten0) :: .request (encode .seten1) :: rest) :
    ∃ s1 s2, step s = .next s1 ∧ step s1 = .next s2 ∧ s2.present = true ∧ s2.regs = s.regs ∧ s2.pending = rest ∧
      ∀ a, inFootprint s.slot a = false → s2.rom.read a = s.rom.read a := by
  obtain ⟨m, h1, hout, -⟩ := step_disable he hf hp
  obtain ⟨s2, h2⟩ := exec_seten1_completes (s := disabledWith m rest s) hf
  have hk := exec_seten1_keeps h2
  refine ⟨_, s2, h1, (step_seten1 rfl).trans h2, exec_seten1_present h2 hl, hk.regs, hk.pending, fun a ha => ?_⟩
  exact ((exec_seten1_writes h2).read ha).trans (hout a ha)

/-- Settles O30: after the two operations the round trip of O22 on the present card. -/
theorem reenableRestoresPresence : Obligations.ReenableRestoresPresence := by
  intro s r w t rest he hl hf hw ht howr hotr hp
  obtain ⟨s1, s2, h1, h2, hp2, hregs, hq2, hrom⟩ := reenable he hl hf hp
  obtain ⟨s4, h4, hresp, -, -⟩ := registerRoundTrip s2 r w t rest hp2 hw ht howr hotr hq2
  exact ⟨⟨s2, steps_two h1 h2, hp2, hregs, hrom⟩, s4, (steps_succ h1).trans ((steps_succ h2).trans h4), hresp⟩

/-- Settles O31: the disable zeroes the footprint, and an enable without a window leaves it. -/
theorem presentDoesNotImplyImage : Obligations.PresentDoesNotImplyImage := by
  intro s rest he hl hf hw hw' hp
  obtain ⟨m, h1, -, hzero⟩ := step_disable he hf hp
  obtain ⟨hno, -, -⟩ := enableTransitionEffects (disabledWith m rest s) rfl hf
  have h2 := hno hw'
  refine ⟨_, steps_two h1 ((step_seten1 rfl).trans h2), exec_seten1_present h2 hl, hzero hw⟩

/-! ## Moving the slot -/

/-- The state after a LOAD of `image` into the footprint of `sl` on an enabled card, with `rest` what still waits
(R87). -/
def loadedWith (sl : Slot) (image : List Byte) (rest : List Stimulus) (s : State) : State :=
  { s with
    firmwareLoaded := true
    slot := sl
    rom := s.rom.writeFrom (slotBase sl) image
    calls := s.calls ++ [.fwFetch Config.firmwareId]
    replies := s.replies.afterFirmware
    response := .nothing
    pending := rest }

theorem step_load_succeeds {s : State} {sl : Slot} {image : List Byte} {rest : List Stimulus} (hf : fits sl s)
    (he : s.enabled = true) (ha : s.replies.firmwareAnswer = some image) (hlen : image.length = 256)
    (hp : s.pending = .request (encode (.load sl)) :: rest) : step s = .next (loadedWith sl image rest s) := by
  obtain ⟨hsl, hfit⟩ := hf
  obtain ⟨-, -, hload⟩ := loadEffects sl { s with pending := rest } ⟨hsl, hfit⟩
  exact (step_load hsl hp).trans (hload image he ha hlen)

/-- Settles O37: the LOAD writes the new footprint, the disable zeroes it, and the old one shares no index with it. -/
theorem movingSlotLeavesOldFootprint : Obligations.MovingSlotLeavesOldFootprint := by
  intro s sl rest he _ hne hf hok hw hp
  obtain ⟨image, ha, hlen⟩ := imageOk_eq_true.1 hok
  have h1 := step_load_succeeds hf he ha hlen hp
  obtain ⟨m, h2, hout, hzero⟩ := step_disable (s := loadedWith sl image (.request (encode .seten0) :: rest) s) he hf rfl
  refine ⟨_, _, steps_one h1, rfl, rfl, steps_two h1 h2, rfl, rfl, fun a hold => ?_, hzero hw⟩
  have hnew : inFootprint sl a = false := inFootprint_eq_false_of_ne hne hold
  have hcopy := Memory.read_image_outside s.rom hlen hnew
  exact ⟨hcopy, (hout a hnew).trans hcopy⟩

end Sys2Proof.Machine
